-- ==== Sys2Proof/Word.lean ====
section
/-!
DEFINITION. The word types of the block (R12): a byte of a message or of a digest, a command word or STATUS word, and a
64-bit lane of the Keccak state. Every value is unsigned.
-/

namespace Sys2Proof

/-- An 8-bit value: a DIN or DOUT entry, a byte of BUF, a byte of the state byte view (R12, R14). -/
abbrev Byte := BitVec 8

/-- A 32-bit value: a command word on CMD or the STATUS word (R12, R33, R70). -/
abbrev Word := BitVec 32

/-- A 64-bit lane of the Keccak state (R12, R20). -/
abbrev Lane := BitVec 64

end Sys2Proof
end

