-- ==== Sys2Proof/Config.lean ====
section
/-!
DEFINITION. What is fixed for one block: the parameters the source fixes (R8) as constants, and the parameters the spec
leaves OPEN (R9: BUF_CAP, CMD_DEPTH, DIN_DEPTH, DOUT_DEPTH) as one record of plain data, which the machine state carries and
no step ever writes (assumption 1). The spec leaves no VALUE of a computation open, so there is no free value here.
-/

namespace Sys2Proof

/-- W of R8: the lane width in bits. -/
abbrev Config.laneWidth : Nat := 64
/-- LANES of R8: the lanes of the 5×5 matrix. -/
abbrev Config.lanes : Nat := 25
/-- B_BITS of R8: the state width in bits. -/
abbrev Config.stateBits : Nat := 1600
/-- NR of R8: the rounds of one permutation. -/
abbrev Config.rounds : Nat := 24
/-- RATE of R8: the rate in bytes. -/
abbrev Config.rate : Nat := 136
/-- CAPACITY of R8: the capacity in bytes. -/
abbrev Config.capacity : Nat := 64
/-- DIGEST of R8: the digest length in bytes. -/
abbrev Config.digestLength : Nat := 32
/-- PAD_FIRST of R8: the first padding byte. -/
abbrev Config.padFirst : Byte := 0x01
/-- PAD_LAST of R8: the value XORed at byte RATE − 1. -/
abbrev Config.padLast : Byte := 0x80
/-- N_WIDTH of R9: the width of a command word's byte-count field. -/
abbrev Config.countWidth : Nat := 24
/-- The largest byte count one command can announce, 2^24 − 1 (R72). -/
abbrev Config.maxCount : Nat := 16777215

/-- The value of an open size parameter (R9): "a natural number or unbounded". -/
inductive Bound where
  /-- No limit. -/
  | unbounded
  /-- At most `n` entries. -/
  | atMost (n : Nat)
deriving DecidableEq, Repr

/-- The open parameters of one block (R9, and the table "Open parameters" of 92_eei_decisions.md). -/
structure Params where
  /-- BUF_CAP: the largest length of BUF in bytes (D8). -/
  bufCap : Bound
  /-- CMD_DEPTH: the depth of CMD in words, at least 1 (D2). -/
  cmdDepth : Bound
  /-- DIN_DEPTH: the depth of DIN in bytes, at least 1 (D2). -/
  dinDepth : Bound
  /-- DOUT_DEPTH: the depth of DOUT in bytes, at least 32 (D10). -/
  doutDepth : Bound
deriving DecidableEq, Repr

/-- The default of every parameter for the programs of 95_test_vectors.md: unbounded. -/
def Params.allUnbounded : Params := ⟨.unbounded, .unbounded, .unbounded, .unbounded⟩

end Sys2Proof
end

