-- ==== Sys2Proof/Syntax.lean ====
section
/-!
DEFINITION. The commands of spec/opcode_table.json, one constructor per row (R73), and the causes of a fault (R201).
-/

namespace Sys2Proof

/-- A decoded command (R73, R77). The operand of WRITE and GETHASH is a byte count (R72), a natural number; that it fits the
24-bit field is `WellFormed`. -/
inductive Instr where
  /-- WRITE n: append the next n DIN bytes to BUF (R162). -/
  | write (n : Nat)
  /-- FINALIZE: push the digest of BUF (R164). -/
  | finalize
  /-- RESET: clear BUF (R166). -/
  | reset
  /-- GETHASH n: push the digest of the next n DIN bytes (R167). -/
  | getHash (n : Nat)
deriving DecidableEq, Repr

/-- Why the block enters its fault state (R201). -/
inductive FaultCause where
  /-- FCODE 1: ACCEPT of a word whose OP is none of the four opcodes (R74). -/
  | illegalOpcode
  /-- FCODE 2: ACCEPT of a FINALIZE or RESET word with N ≠ 0 (R75). -/
  | reservedNonzero
  /-- FCODE 3: ACCEPT of a WRITE n with |BUF| + n > BUF_CAP (R161). -/
  | bufOverflow
deriving DecidableEq, Repr

/-- What DECODE answers (R77): a command or the cause `Err(k)`. -/
inductive Decoded where
  /-- A command. -/
  | cmd (i : Instr)
  /-- An error: `illegalOpcode` is Err(1), `reservedNonzero` is Err(2). -/
  | err (k : FaultCause)
deriving DecidableEq, Repr

end Sys2Proof
end

