-- ==== Sys2Proof/WellFormed.lean ====
section
/-!
DEFINITION. Which commands a command word can carry: the byte count of WRITE and GETHASH fits the 24-bit field N (R72).
-/

namespace Sys2Proof

/-- The byte count fits the field N, whose value is 0 to 2^24 − 1 (R72). -/
def countFits (n : Nat) : Bool := decide (n ≤ Config.maxCount)

/-- A command that a 32-bit command word can carry (R72, R73). -/
def Instr.wellFormed : Instr → Bool
  | .write n => countFits n
  | .finalize => true
  | .reset => true
  | .getHash n => countFits n

/-- `Instr.wellFormed` as a decidable proposition. -/
abbrev WellFormed (i : Instr) : Prop := i.wellFormed = true

end Sys2Proof
end

