-- ==== Sys2Proof/Decode.lean ====
section
/-!
DEFINITION. Command words: the fields OP and N (R70 to R72), DECODE (R77), total on all 2^32 words, and after it the encoder,
written from the encodings of R73 and R80. A command is a whole 32-bit word of the CMD channel, so no byte order arises (R70).
-/

namespace Sys2Proof

/-- OP = w[7:0] (R71). -/
def opField (w : Word) : Byte := w.extractLsb' 0 8

/-- N = w[31:8], a 24-bit unsigned count (R72). -/
def nField (w : Word) : BitVec 24 := w.extractLsb' 8 24

/-- The opcode of WRITE (R73). -/
def opWrite : Byte := 0x01
/-- The opcode of FINALIZE (R73). -/
def opFinalize : Byte := 0x02
/-- The opcode of RESET (R73). -/
def opReset : Byte := 0x03
/-- The opcode of GETHASH (R73). -/
def opGetHash : Byte := 0x04

/-- A command whose field N is reserved: it must be 0, or the word is RESERVED_NONZERO (R75). -/
def requireZero (n : Nat) (i : Instr) : Decoded := if n = 0 then .cmd i else .err .reservedNonzero

/-- DECODE (R77). It depends on the word alone. -/
def decode (w : Word) : Decoded :=
  if opField w = opWrite then .cmd (.write (nField w).toNat)
  else if opField w = opFinalize then requireZero (nField w).toNat .finalize
  else if opField w = opReset then requireZero (nField w).toNat .reset
  else if opField w = opGetHash then .cmd (.getHash (nField w).toNat)
  else .err .illegalOpcode

/-- A command word from its two fields: `{N, OP}` (R70). -/
def commandWord (op : Byte) (n : Nat) : Word := BitVec.ofNat 24 n ++ op

/-- The opcode of a command (R73). -/
def Instr.opcode : Instr → Byte
  | .write _ => opWrite
  | .finalize => opFinalize
  | .reset => opReset
  | .getHash _ => opGetHash

/-- The value a command's word carries in N: the byte count of WRITE and GETHASH, 0 for FINALIZE and RESET (R73). -/
def Instr.count : Instr → Nat
  | .write n => n
  | .finalize => 0
  | .reset => 0
  | .getHash n => n

/-- The command word of a command (R73, R80). -/
def encode (i : Instr) : Word := commandWord i.opcode i.count

/-- What the decoder reads from a row of spec/opcode_table.json whose `nbits` bits are `w`, the bits above them 0. A command
is one 32-bit word (R70), numbered in the table as the word's own bits are. -/
def decodeTableWord (nbits w : Nat) : Option Instr :=
  match decode (BitVec.ofNat 32 (w % 2 ^ nbits)) with
  | .cmd i => some i
  | .err _ => none

end Sys2Proof
end

