-- ==== Sys2Proof/Machine/State.lean ====
section
/-!
DEFINITION. The machine's state (R27 to R33): everything that lives between two Engine steps, as plain data, and its value
after hardware reset (R39, R230). The Keccak state A, the scratch values C, D and B, blockOffset, the round index and the LFSR
are NOT here: R23 says that a model keeps none of them between Engine steps (assumption 7); they are the values of the pure
functions of Machine/Permutation.lean and Machine/Sponge.lean. STATUS has no storage of its own (R33): Machine/Flags.lean
computes it.
-/

namespace Sys2Proof.Machine

/-- Why a step would stop the model. There is no such reason on this hardware: every function of the datapath is total (R200),
every command that violates the caller contract ENTERS the architectural fault state, which is a next state with FAULT = 1
(R202), and a state in which the Engine has no step is a hold, which changes nothing (R160). So the type has no constructor,
and no step answers `fault`; that is the spec's own totality and not a choice of the model (assumptions 4 and 5). -/
inductive Fault where
deriving DecidableEq, Repr

/-- Why an instruction would have no meaning. -/
inductive Refusal where
  /-- Raised only by an arm of `exec` whose instruction has no meaning yet, under its mnemonic. Safe: nothing can be proved
  of a refused instruction's next state. No arm of this model raises it. -/
  | notModelled (mnemonic : String)
deriving DecidableEq, Repr

/-- MODE (R28): the streaming hasher's logical state, one bit. -/
inductive Mode where
  /-- MODE = 0. -/
  | empty
  /-- MODE = 1. -/
  | accumulating
deriving DecidableEq, Repr

/-- PHASE (R31): the Engine sequencer state. -/
inductive Phase where
  /-- No command in progress. -/
  | idle
  /-- WDATA(r): a WRITE is in progress and r data bytes remain to be taken from DIN. -/
  | wdata (r : Nat)
  /-- GDATA(r, MSG): a GETHASH is in progress, r data bytes remain and MSG has been received so far. -/
  | gdata (r : Nat) (msg : List Byte)
deriving DecidableEq, Repr

/-- What a Host may do to the block (R180 to R183). -/
inductive HostAction where
  /-- HostPushCmd(w) (R180). -/
  | pushCmd (w : Word)
  /-- HostPushDin(b) (R181). -/
  | pushDin (b : Byte)
  /-- HostPopDout (R182). -/
  | popDout
  /-- HostReadStatus (R183). -/
  | readStatus
deriving DecidableEq, Repr

/-- Who moves next (R184): the Engine, one of the Hosts (R215 allows several), or the reset input (R230). -/
inductive Move where
  /-- The Engine's turn. -/
  | engine
  /-- Host number `who` does `a`. -/
  | host (who : Nat) (a : HostAction)
  /-- The hardware reset input is raised. -/
  | hardwareReset
deriving DecidableEq, Repr

/-- The state of one block and, beside it, what the model needs of the outside world. The fields from `buf` to `dout` are the
spec's persistent architectural state (R27 to R32). `params` holds the open parameters (R9), which no step writes
(assumption 1). `plan`, `received` and `statusReads` are the model's own fields: the moves still to come of the two agents and
of the reset input (assumption 2), and what each Host has received so far, newest last (assumption 6). -/
structure State where
  /-- BUF_CAP, CMD_DEPTH, DIN_DEPTH and DOUT_DEPTH (R9). -/
  params : Params
  /-- BUF, the accumulation buffer (R27). -/
  buf : List Byte
  /-- MODE (R28). -/
  mode : Mode
  /-- FAULT, the sticky fault bit (R30). -/
  fault : Bool
  /-- FCODE, the 4-bit fault code (R30). -/
  fcode : BitVec 4
  /-- PHASE (R31). -/
  phase : Phase
  /-- The CMD channel, oldest entry first (R32). -/
  cmd : List Word
  /-- The DIN channel, oldest entry first (R32). -/
  din : List Byte
  /-- The DOUT channel, oldest entry first (R32). -/
  dout : List Byte
  /-- The moves to come; when it is empty every move is the Engine's (model's own field). -/
  plan : List Move
  /-- The digest bytes popped so far, each with the Host that received it (model's own field). -/
  received : List (Nat × Byte)
  /-- The STATUS words read so far, each with the Host that received it (model's own field). -/
  statusReads : List (Nat × Word)
deriving DecidableEq, Repr

/-- The state after hardware reset (R39, R230), with the open parameters at the spec's default for programs, unbounded
(assumption 1), no Host move planned and nothing received. -/
def State.reset : State where
  params := Params.allUnbounded
  buf := []
  mode := .empty
  fault := false
  fcode := 0
  phase := .idle
  cmd := []
  din := []
  dout := []
  plan := []
  received := []
  statusReads := []

end Sys2Proof.Machine
end

