-- ==== Sys2Proof/Machine/Ops.lean ====
section
/-!
DEFINITION. The named operations over the channels and registers (R15, R32), and the two ways control leaves a command's own
effect: entering the fault state (R202) and hardware reset (R230). There is no return from a fault (R205).
-/

namespace Sys2Proof.Machine

/-- A size is within an open parameter (R9). -/
def allows : Bound → Nat → Bool
  | .unbounded, _ => true
  | .atMost limit, size => decide (size ≤ limit)

/-- `Pop(CMD)` (R32): the command word is consumed. -/
def popCmd (s : State) : State := { s with cmd := s.cmd.tail }

/-- `Push(DOUT, d[k])` for every byte of `d`, in order (R32, R79). -/
def pushDout (d : List Byte) (s : State) : State := { s with dout := s.dout ++ d }

/-- `BUF <- BUF ++ [b]` (R163). -/
def appendBuf (b : Byte) (s : State) : State := { s with buf := s.buf ++ [b] }

/-- `BUF <- []` and `MODE <- 0` (R166). -/
def clearBuf (s : State) : State := { s with buf := [], mode := .empty }

/-- `PHASE <- p` (R31). -/
def setPhase (p : Phase) (s : State) : State := { s with phase := p }

/-- `MODE <- m` (R28). -/
def setMode (m : Mode) (s : State) : State := { s with mode := m }

/-- DIN holds `ds` after a pop (R32). -/
def setDin (ds : List Byte) (s : State) : State := { s with din := ds }

/-- The fault code k of a cause (R201). -/
def fcodeOf : FaultCause → BitVec 4
  | .illegalOpcode => 1
  | .reservedNonzero => 2
  | .bufOverflow => 3

/-- `raise Fault(k)` (R202): FAULT and FCODE and nothing else; the offending word has been popped before. -/
def raiseFault (k : FaultCause) (s : State) : State := { s with fault := true, fcode := fcodeOf k }

/-- ACCEPT of a word that violates the caller contract: `Pop(CMD); raise Fault(k)` (R161). -/
def rejectCommand (k : FaultCause) (s : State) : State := raiseFault k (popCmd s)

/-- Hardware reset (R230, R231, R232): every piece of the block's state takes its reset value (R39). The open parameters are
the block's own, and the plan and what the Hosts have received are outside it. -/
def hardwareReset (s : State) : State :=
  { State.reset with
    params := s.params, plan := s.plan, received := s.received, statusReads := s.statusReads }

/-- A word where the next ACCEPT takes it, in a state in which ACCEPT is enabled and the Engine moves (R161): `w` in place of
the head of CMD, PHASE = IDLE and no fault. -/
def placeCommand (w : Word) (s : State) : State :=
  { s with
    cmd := w :: s.cmd.tail, phase := .idle, fault := false, fcode := 0,
    plan := if s.plan = [] then [] else .engine :: s.plan }

end Sys2Proof.Machine
end

