-- ==== Sys2Proof/Machine/Operands.lean ====
section
/-!
DEFINITION. What ACCEPT asks of a command's operand and of the channels before it performs the command (R161), and the phase
a byte count leads to (R162, R167). A command has one operand form: the byte count N (R72), whose bytes are the next N of DIN.
-/

namespace Sys2Proof.Machine

/-- `|BUF| + n ≤ BUF_CAP`: a WRITE n does not overflow the buffer (R161, R218). -/
def bufferAccepts (n : Nat) (s : State) : Bool := allows s.params.bufCap (s.buf.length + n)

/-- `DOUT_DEPTH - |DOUT| ≥ 32`: DOUT has room for a whole digest (R161, R209). -/
def doutHasRoom (s : State) : Bool := allows s.params.doutDepth (s.dout.length + Config.digestLength)

/-- The phase after the accept of WRITE n: `(n == 0) ? IDLE : WDATA(n)` (R162). -/
def writePhase (n : Nat) : Phase := if n = 0 then .idle else .wdata n

/-- The phase after a WDATA step: `(r == 1) ? IDLE : WDATA(r - 1)` (R163). -/
def afterWriteByte (r : Nat) : Phase := if r = 1 then .idle else .wdata (r - 1)

end Sys2Proof.Machine
end

