-- ==== Sys2Proof/Machine/Flags.lean ====
section
/-!
DEFINITION. The status bits and the STATUS word (R33). The block has no condition codes (R36): MODE, FAULT, FCODE and BUSY are
its only status bits.
-/

namespace Sys2Proof.Machine

/-- MODE as STATUS bit 0 shows it (R28): 0 = Empty, 1 = Accumulating. -/
def Mode.bit : Mode → BitVec 1
  | .empty => 0
  | .accumulating => 1

/-- BUSY (R33): PHASE ≠ IDLE. -/
def busy (s : State) : Bool := decide (s.phase ≠ .idle)

/-- STATUS (R33): bit 0 MODE, bit 1 FAULT, bit 2 BUSY, bit 3 reads 0, bits 7:4 FCODE, bits 31:8 read 0. -/
def statusWord (s : State) : Word :=
  0#24 ++ s.fcode ++ 0#1 ++ BitVec.ofBool (busy s) ++ BitVec.ofBool s.fault ++ s.mode.bit

end Sys2Proof.Machine
end

