-- ==== Sys2Proof/Machine/Permutation.lean ====
section
/-!
DEFINITION. The Permutation Core (R20, R21, R100 to R114): the 1600-bit state A as a 5×5 matrix of lanes, the rotation, the
five step mappings, the round, KECCAK_F, the two constant tables, and beside them the rules that generate the tables (R110,
R112). Everything is a pure total function (R114). A mapping computes every output lane from its input state alone (R16).
-/

namespace Sys2Proof.Machine

/-- One column of A: the five lanes A[x][0] to A[x][4]. -/
structure Column where
  y0 : Lane
  y1 : Lane
  y2 : Lane
  y3 : Lane
  y4 : Lane
deriving DecidableEq, Repr

/-- The Keccak state A (R20): five columns of five lanes, 1600 bits. -/
structure KState where
  x0 : Column
  x1 : Column
  x2 : Column
  x3 : Column
  x4 : Column
deriving DecidableEq, Repr

/-- The lane in row y of a column. -/
def Column.lane (c : Column) (y : Nat) : Lane :=
  match y with
  | 0 => c.y0
  | 1 => c.y1
  | 2 => c.y2
  | 3 => c.y3
  | _ => c.y4

/-- A column with row y replaced. -/
def Column.setLane (c : Column) (y : Nat) (v : Lane) : Column :=
  match y with
  | 0 => { c with y0 := v }
  | 1 => { c with y1 := v }
  | 2 => { c with y2 := v }
  | 3 => { c with y3 := v }
  | _ => { c with y4 := v }

/-- Column x of A. -/
def KState.column (A : KState) (x : Nat) : Column :=
  match x with
  | 0 => A.x0
  | 1 => A.x1
  | 2 => A.x2
  | 3 => A.x3
  | _ => A.x4

/-- `A[x][y]`, with both coordinates taken modulo 5 (R13, R15). -/
def KState.lane (A : KState) (x y : Nat) : Lane := (A.column (x % 5)).lane (y % 5)

/-- `A[x][y] <- v` (R15). -/
def KState.setLane (A : KState) (x y : Nat) (v : Lane) : KState :=
  match x % 5 with
  | 0 => { A with x0 := A.x0.setLane (y % 5) v }
  | 1 => { A with x1 := A.x1.setLane (y % 5) v }
  | 2 => { A with x2 := A.x2.setLane (y % 5) v }
  | 3 => { A with x3 := A.x3.setLane (y % 5) v }
  | _ => { A with x4 := A.x4.setLane (y % 5) v }

/-- The column whose row y is `f y`. -/
def Column.build (f : Nat → Lane) : Column := ⟨f 0, f 1, f 2, f 3, f 4⟩

/-- The state whose lane (x, y) is `f x y`: "for x in 0..4, y in 0..4: A'[x][y] <- f x y". -/
def KState.build (f : Nat → Nat → Lane) : KState :=
  ⟨.build (f 0), .build (f 1), .build (f 2), .build (f 3), .build (f 4)⟩

/-- The all-zero state (R22). -/
def KState.zero : KState := .build fun _ _ => 0

/-- ROTL (R100): the 64-bit cyclic left rotation, for n in 0..63. Rotation by 0 is the identity and is not computed as a
shift by 64 (R241). -/
def rotl (v : Lane) (n : Nat) : Lane := if n = 0 then v else v <<< n ||| v >>> (64 - n)

/-- The rotation table (R109), one list per column x, row y in order. -/
def rotTable : List (List Nat) :=
  [[0, 36, 3, 41, 18],
   [1, 44, 10, 45, 2],
   [62, 6, 43, 15, 61],
   [28, 55, 25, 21, 56],
   [27, 20, 39, 8, 14]]

/-- ROT[x][y] (R109), for x and y in 0..4. -/
def rot (x y : Nat) : Nat := (rotTable.getD x []).getD y 0

/-- The round-constant table as R111 lays it out: row k holds the pair RC[k], RC[k + 12]. -/
def rcRows : List (Lane × Lane) :=
  [(0x0000000000000001, 0x000000008000808B),
   (0x0000000000008082, 0x800000000000008B),
   (0x800000000000808A, 0x8000000000008089),
   (0x8000000080008000, 0x8000000000008003),
   (0x000000000000808B, 0x8000000000008002),
   (0x0000000080000001, 0x8000000000000080),
   (0x8000000080008081, 0x000000000000800A),
   (0x8000000000008009, 0x800000008000000A),
   (0x000000000000008A, 0x8000000080008081),
   (0x0000000000000088, 0x8000000000008080),
   (0x0000000080008009, 0x0000000080000001),
   (0x000000008000000A, 0x8000000080008008)]

/-- RC[i] (R111), for i in 0..23: the left half of its row below 12, the right half from 12. -/
def rc (i : Nat) : Lane :=
  if i < 12 then (rcRows.getD i (0, 0)).1 else (rcRows.getD (i - 12) (0, 0)).2

/-- C[x] (R24, R101): the parity of column x. -/
def columnParity (A : KState) (x : Nat) : Lane :=
  A.lane x 0 ^^^ A.lane x 1 ^^^ A.lane x 2 ^^^ A.lane x 3 ^^^ A.lane x 4

/-- D[x] (R24, R101): the theta offset of column x. -/
def thetaOffset (A : KState) (x : Nat) : Lane :=
  columnParity A ((x + 4) % 5) ^^^ rotl (columnParity A ((x + 1) % 5)) 1

/-- THETA (R101). -/
def theta (A : KState) : KState := .build fun x y => A.lane x y ^^^ thetaOffset A x

/-- RHO (R102). -/
def rho (A : KState) : KState := .build fun x y => rotl (A.lane x y) (rot x y)

/-- PI (R103), in the rule's form by destination: A'[X][Y] = A[(X + 3Y) mod 5][X]. -/
def piStep (A : KState) : KState := .build fun x y => A.lane ((x + 3 * y) % 5) x

/-- RHO_PI (R104): PI(RHO(A)), the scratch state B. -/
def rhoPi (A : KState) : KState := piStep (rho A)

/-- CHI (R105), reading only the scratch state B. -/
def chi (B : KState) : KState :=
  .build fun x y => B.lane x y ^^^ (~~~(B.lane ((x + 1) % 5) y) &&& B.lane ((x + 2) % 5) y)

/-- IOTA (R106): the round constant into lane (0,0) only. -/
def iota (A : KState) (i : Nat) : KState := A.setLane 0 0 (A.lane 0 0 ^^^ rc i)

/-- ROUND (R107): θ, ρ, π, χ, ι in that order. -/
def keccakRound (A : KState) (i : Nat) : KState := iota (chi (rhoPi (theta A))) i

/-- KECCAK_F (R108): rounds 0 to 23 in increasing order. -/
def keccakF (A : KState) : KState := (List.range Config.rounds).foldl keccakRound A

/-- The walk of R110: for t = 0..23 the position (x, y) and its rotation ((t + 1)(t + 2) / 2) mod 64. -/
def rotWalk : List (Nat × Nat × Nat) :=
  ((List.range 24).foldl
    (fun (acc : Nat × Nat × List (Nat × Nat × Nat)) t =>
      (acc.2.1, (2 * acc.1 + 3 * acc.2.1) % 5,
        acc.2.2 ++ [(acc.1, acc.2.1, ((t + 1) * (t + 2) / 2) % 64)]))
    (1, 0, [])).2.2

/-- ROT[x][y] as the generating rule of R110 gives it; (0, 0) is not on the walk and has 0. -/
def rotGenerated (x y : Nat) : Nat :=
  match rotWalk.find? fun e => e.1 == x && e.2.1 == y with
  | some e => e.2.2
  | none => 0

/-- One draw of the LFSR (R112): the register after the shift, with the feedback 0x71 when bit 7 was 1. -/
def lfsrNext (r : BitVec 8) : BitVec 8 := if r.getLsbD 7 then (r <<< 1) ^^^ 0x71 else r <<< 1

/-- One round's seven draws (R112): draw j gives bit 2^j − 1 of the constant. From the register, the constant and the register
after the round. -/
def lfsrRound (r : BitVec 8) : Lane × BitVec 8 :=
  (List.range 7).foldl
    (fun (acc : Lane × BitVec 8) j =>
      (if acc.2.getLsbD 0 then acc.1 ^^^ (1 <<< (2 ^ j - 1)) else acc.1, lfsrNext acc.2))
    (0, r)

/-- The LFSR register before round i, seeded to 0x01 at the start of a permutation (R26, R112). -/
def lfsrBefore (i : Nat) : BitVec 8 := (List.range i).foldl (fun r _ => (lfsrRound r).2) 0x01

/-- RC[i] as the LFSR generates it (R112). -/
def rcGenerated (i : Nat) : Lane := (lfsrRound (lfsrBefore i)).1

end Sys2Proof.Machine
end

