-- ==== Sys2Proof/Machine/Sponge.lean ====
section
/-!
DEFINITION. The byte view of the Keccak state (R51, R53) and the Absorption / Padding Engine (R130 to R140): absorb, pad,
squeeze and the digest function KECCAK256, its block-wise form (R138), and absorption with its permutation calls counted
(R137). Everything is a pure total function on byte sequences.
-/

namespace Sys2Proof.Machine

/-- `StateByte(A, o)` (R51): byte o mod 8, counted little-endian, of lane j = o div 8, at (j mod 5, j div 5). -/
def stateByte (A : KState) (o : Nat) : Byte :=
  (A.lane ((o / 8) % 5) ((o / 8) / 5)).extractLsb' (8 * (o % 8)) 8

/-- `StateXorByte(A, o, b)` (R53). -/
def stateXorByte (A : KState) (o : Nat) (b : Byte) : KState :=
  A.setLane ((o / 8) % 5) ((o / 8) / 5)
    (A.lane ((o / 8) % 5) ((o / 8) / 5) ^^^ (b.zeroExtend 64 <<< (8 * (o % 8))))

/-- The working state of the sponge: the pair (A, off), off being blockOffset (R25). -/
structure Sponge where
  /-- The Keccak state. -/
  A : KState
  /-- blockOffset, in 0..135 between input bytes. -/
  off : Nat
deriving DecidableEq, Repr

/-- SPONGE_INIT (R130). -/
def spongeInit : Sponge := ⟨.zero, 0⟩

/-- ABSORB_BYTE (R131): the permutation is called as soon as the 136th byte of a block is in. -/
def absorbByte (p : Sponge) (b : Byte) : Sponge :=
  if p.off + 1 = Config.rate then ⟨keccakF (stateXorByte p.A p.off b), 0⟩
  else ⟨stateXorByte p.A p.off b, p.off + 1⟩

/-- ABSORB (R132): the bytes of m in index order. -/
def absorb (m : List Byte) : Sponge := m.foldl absorbByte spongeInit

/-- The two padding XORs of PAD (R133, R134), before its permutation. -/
def padXors (p : Sponge) : KState :=
  stateXorByte (stateXorByte p.A p.off Config.padFirst) (Config.rate - 1) Config.padLast

/-- PAD (R133, R134): both padding values are XORed, then one permutation call. -/
def pad (p : Sponge) : KState := keccakF (padXors p)

/-- SQUEEZE (R135): state bytes 0 to 31. -/
def squeeze (A : KState) : List Byte := (List.range Config.digestLength).map (stateByte A)

/-- KECCAK256 (R136). -/
def keccak256 (m : List Byte) : List Byte := squeeze (pad (absorb m))

/-- `zeros(n)` (R14). -/
def zeros (n : Nat) : List Byte := List.replicate n 0

/-- PADBYTES(q) (R138), for q in 0..135. -/
def padBytes (q : Nat) : List Byte :=
  if q = 135 then [0x81] else [0x01] ++ zeros (134 - q) ++ [0x80]

/-- The padded message P = m ++ PADBYTES(|m| mod 136) (R138). -/
def paddedMessage (m : List Byte) : List Byte := m ++ padBytes (m.length % Config.rate)

/-- "for o in 0..135: StateXorByte(A, o, P[136t + o])" (R138). -/
def xorBlock (P : List Byte) (t : Nat) (A : KState) : KState :=
  (List.range Config.rate).foldl (fun A o => stateXorByte A o (P.getD (Config.rate * t + o) 0)) A

/-- The block-wise form of the digest (R138). -/
def keccak256Blocks (m : List Byte) : List Byte :=
  squeeze <|
    (List.range ((paddedMessage m).length / Config.rate)).foldl
      (fun A t => keccakF (xorBlock (paddedMessage m) t A)) .zero

/-- ABSORB_BYTE beside a count of the KECCAK_F calls made (R132, R137): one call exactly when the byte fills the block. -/
def absorbByteCounted (p : Sponge × Nat) (b : Byte) : Sponge × Nat :=
  (absorbByte p.1 b, if p.1.off + 1 = Config.rate then p.2 + 1 else p.2)

/-- ABSORB beside a count of its KECCAK_F calls (R132). -/
def absorbCounted (m : List Byte) : Sponge × Nat := m.foldl absorbByteCounted (spongeInit, 0)

/-- The KECCAK_F calls of KECCAK256(m): those of ABSORB and the one of PAD (R137). -/
def permutationCalls (m : List Byte) : Nat := (absorbCounted m).2 + 1

end Sys2Proof.Machine
end

