-- ==== Sys2Proof/Machine/Hasher.lean ====
section
/-!
DEFINITION. The Streaming Hasher's four commands (R162, R164, R166, R167), one meaning per constructor of Instr. A meaning is
what ACCEPT (R161) does once the head of CMD has decoded to the command: the command's own check in R161's order, then
Pop(CMD), then the command's effect. The word stays at the head of CMD only where R161 holds (DOUT-SPACE).
-/

namespace Sys2Proof.Machine

/-- WRITE n (R162): BUF_OVERFLOW if the whole announced length does not fit (R161, R218); else MODE ← 1 and n data steps. -/
def execWrite (n : Nat) (s : State) : Host.Outcome State Fault Refusal :=
  if bufferAccepts n s then .next (setPhase (writePhase n) (setMode .accumulating (popCmd s)))
  else .next (rejectCommand .bufOverflow s)

/-- FINALIZE (R164, R165): all 32 digest bytes of BUF to DOUT in one step, BUF and MODE untouched; without room for them the
step holds (DOUT-SPACE, R160) and changes nothing. -/
def execFinalize (s : State) : Host.Outcome State Fault Refusal :=
  if doutHasRoom s then .next (pushDout (keccak256 s.buf) (popCmd s)) else .next s

/-- RESET (R166): clears BUF and MODE; FAULT, FCODE, DIN and DOUT stay (R233). -/
def execReset (s : State) : Host.Outcome State Fault Refusal :=
  .next (clearBuf (popCmd s))

/-- GETHASH n (R167): the empty message's digest at once, or n data steps into a fresh MSG; BUF and MODE are neither read nor
written. Without room for a digest the step holds (DOUT-SPACE, R160) and changes nothing. -/
def execGetHash (n : Nat) (s : State) : Host.Outcome State Fault Refusal :=
  if doutHasRoom s then
    if n = 0 then .next (pushDout (keccak256 []) (popCmd s))
    else .next (setPhase (.gdata n []) (popCmd s))
  else .next s

end Sys2Proof.Machine
end

