-- ==== Sys2Proof/Machine/Engine.lean ====
section
/-!
DEFINITION. The Engine's steps: ACCEPT (R161), WDATA (R163), GDATA (R168), and which of them is enabled (R160, R171). Where none
is enabled the Engine holds, and a hold changes no state (R160; assumption 4).
-/

namespace Sys2Proof.Machine

/-- ACCEPT (R161) of the word w = Head(CMD): decode it; an illegal or reserved-nonzero word is consumed and faults (R74, R75). -/
def acceptWord (w : Word) (s : State) : Host.Outcome State Fault Refusal :=
  match decode w with
  | .err k => .next (rejectCommand k s)
  | .cmd i => exec i s

/-- ACCEPT (R161), enabled iff PHASE = IDLE and FAULT = 0 and |CMD| > 0; with CMD empty the Engine holds (CMD-EMPTY). -/
def acceptStep (s : State) : Host.Outcome State Fault Refusal :=
  match s.cmd with
  | [] => .next s
  | w :: _ => acceptWord w s

/-- WDATA (R163), enabled iff |DIN| > 0; otherwise the Engine holds (DIN-EMPTY, R207). -/
def wdataStep (r : Nat) (s : State) : Host.Outcome State Fault Refusal :=
  match s.din with
  | [] => .next s
  | b :: ds => .next (setPhase (afterWriteByte r) (appendBuf b (setDin ds s)))

/-- The end of a GDATA step (R168), with MSG' the message received so far: the digest at the last byte, else one byte fewer to
come. -/
def gdataFinish (r : Nat) (msg : List Byte) (s : State) : State :=
  if r = 1 then setPhase .idle (pushDout (keccak256 msg) s) else setPhase (.gdata (r - 1) msg) s

/-- GDATA (R168), enabled iff |DIN| > 0; otherwise the Engine holds (DIN-EMPTY, R207). -/
def gdataStep (r : Nat) (msg : List Byte) (s : State) : Host.Outcome State Fault Refusal :=
  match s.din with
  | [] => .next s
  | b :: ds => .next (gdataFinish r (msg ++ [b]) (setDin ds s))

/-- One turn of the Engine (R160, R172). With FAULT = 1 it has no step, whatever PHASE is (R171; assumption 9). -/
def engineStep (s : State) : Host.Outcome State Fault Refusal :=
  if s.fault then .next s
  else
    match s.phase with
    | .idle => acceptStep s
    | .wdata r => wdataStep r s
    | .gdata r msg => gdataStep r msg s

end Sys2Proof.Machine
end

