-- ==== Sys2Proof/Machine/HostActions.lean ====
section
/-!
DEFINITION. The Host's actions (R180 to R183), the order in which the agents move (R184), and hardware reset as a move. A Host
whose action is not enabled holds, and the Engine has the turn (assumption 3).
-/

namespace Sys2Proof.Machine

/-- HostPushCmd(w) (R180): enabled iff |CMD| < CMD_DEPTH. The word is not checked. -/
def hostPushCmd (w : Word) (s : State) : Option State :=
  if allows s.params.cmdDepth (s.cmd.length + 1) then some { s with cmd := s.cmd ++ [w] } else none

/-- HostPushDin(b) (R181): enabled iff |DIN| < DIN_DEPTH. -/
def hostPushDin (b : Byte) (s : State) : Option State :=
  if allows s.params.dinDepth (s.din.length + 1) then some { s with din := s.din ++ [b] } else none

/-- HostPopDout (R182): enabled iff |DOUT| > 0; Host `who` receives Head(DOUT). -/
def hostPopDout (who : Nat) (s : State) : Option State :=
  match s.dout with
  | [] => none
  | b :: rest => some { s with dout := rest, received := s.received ++ [(who, b)] }

/-- HostReadStatus (R183): always enabled; Host `who` receives STATUS, and the block does not change. -/
def hostReadStatus (who : Nat) (s : State) : Option State :=
  some { s with statusReads := s.statusReads ++ [(who, statusWord s)] }

/-- One action of Host `who`: the next state, or `none` where the action is not enabled. -/
def hostAct (who : Nat) (a : HostAction) (s : State) : Option State :=
  match a with
  | .pushCmd w => hostPushCmd w s
  | .pushDin b => hostPushDin b s
  | .popDout => hostPopDout who s
  | .readStatus => hostReadStatus who s

/-- The plan without its first move. -/
def setPlan (rest : List Move) (s : State) : State := { s with plan := rest }

/-- A Host's turn: its action if that is enabled; else the Host holds, its move stays first, and the Engine moves. -/
def hostTurn (who : Nat) (a : HostAction) (rest : List Move) (s : State) : Host.Outcome State Fault Refusal :=
  match hostAct who a (setPlan rest s) with
  | some t => .next t
  | none => engineStep s

/-- One step of the whole system: the next move of the plan, or the Engine's when the plan is used up (R184). -/
def takeTurn (s : State) : Host.Outcome State Fault Refusal :=
  match s.plan with
  | [] => engineStep s
  | .engine :: rest => engineStep (setPlan rest s)
  | .host who a :: rest => hostTurn who a rest s
  | .hardwareReset :: rest => .next (hardwareReset (setPlan rest s))

end Sys2Proof.Machine
end

