-- ==== Sys2Proof/Machine/Step.lean ====
section
/-!
DEFINITION. One step of the machine, and the state in which a given command is the next one ACCEPT takes.
-/

namespace Sys2Proof.Machine

/-- One step: the next move of Host, reset input or Engine (R10, R184). -/
def step (s : State) : Host.Outcome State Fault Refusal := takeTurn s

/-- `s` with the command whose table bits are `w` where the next step takes it: at the head of CMD, with ACCEPT enabled and
the Engine to move. A command is one 32-bit word, so the bits above `nbits` are 0. -/
def State.withFetchWord (s : State) (nbits w : Nat) : State :=
  placeCommand (BitVec.ofNat 32 (w % 2 ^ nbits)) s

end Sys2Proof.Machine
end

