-- ==== Sys2Proof/Machine/Program.lean ====
section
/-!
DEFINITION. Command programs as the spec writes them: the text forms of R80, the pseudo-commands of R81, the Host moves a
program stands for, and the state a run is launched from (R245).
-/

namespace Sys2Proof.Machine

/-- `<data>` of R80. -/
inductive Data where
  /-- A quoted ASCII string, as its characters. -/
  | text (cs : List Char)
  /-- `zeros(n)`. -/
  | zeroBytes (n : Nat)
  /-- A bracketed list of bytes. -/
  | bytes (bs : List Byte)
deriving DecidableEq, Repr

/-- The bytes a `<data>` stands for (R14, R80). -/
def dataBytes : Data → List Byte
  | .text cs => cs.map fun c => BitVec.ofNat 8 c.toNat
  | .zeroBytes n => zeros n
  | .bytes bs => bs

/-- One line of a command program (R80). -/
inductive Line where
  /-- `WRITE <data>`. -/
  | write (d : Data)
  /-- `FINALIZE`. -/
  | finalize
  /-- `RESET`. -/
  | reset
  /-- `GETHASH <data>`. -/
  | getHash (d : Data)
  /-- `.word <hex32>`: the given word, raw. -/
  | word (w : Word)
  /-- `.din <bytes>`: the given bytes, raw. -/
  | din (bs : List Byte)
deriving DecidableEq, Repr

/-- The text is ASCII, and `len(data)` is at most 2^24 − 1 (R80). -/
def dataFits (d : Data) : Bool :=
  countFits (dataBytes d).length &&
    match d with
    | .text cs => cs.all fun c => decide (c.toNat < 128)
    | _ => true

/-- A line that R80 allows. -/
def lineWellFormed : Line → Bool
  | .write d => dataFits d
  | .getHash d => dataFits d
  | .finalize => true
  | .reset => true
  | .word _ => true
  | .din _ => true

/-- The command word of a line (R80, column "command word"): `(len(data) << 8) OR 0x01` and so on. -/
def lineWord : Line → Option Word
  | .write d => some (BitVec.ofNat 32 (dataBytes d).length <<< 8 ||| 0x01)
  | .finalize => some 0x00000002
  | .reset => some 0x00000003
  | .getHash d => some (BitVec.ofNat 32 (dataBytes d).length <<< 8 ||| 0x04)
  | .word w => some w
  | .din _ => none

/-- The DIN bytes of a line (R80, column "DIN bytes pushed"). -/
def lineDin : Line → List Byte
  | .write d => dataBytes d
  | .getHash d => dataBytes d
  | .din bs => bs
  | .finalize => []
  | .reset => []
  | .word _ => []

/-- The moves by which Host `who` issues a line: its word to CMD, then its bytes to DIN. -/
def lineMoves (who : Nat) (l : Line) : List Move :=
  (lineWord l).toList.map (fun w => .host who (.pushCmd w)) ++ (lineDin l).map fun b => .host who (.pushDin b)

/-- The moves of a whole program, line by line. -/
def programMoves (who : Nat) (p : List Line) : List Move := p.flatMap (lineMoves who)

/-- The pseudo-command `HASH <data>` (R81). -/
def hashLines (d : Data) : List Line := [.reset, .write d, .finalize]

/-- WRITE commands of `size` bytes each, in order, then one WRITE of the remainder, which may be empty. -/
def writeChunks (size : Nat) (bs : List Byte) : List Line :=
  (List.range (bs.length / size)).map (fun k => .write (.bytes ((bs.drop (size * k)).take size)))
    ++ [.write (.bytes (bs.drop (size * (bs.length / size))))]

/-- The pseudo-command `WRITE_LONG <data>` (R81): chunks of 2^24 − 1 bytes. -/
def writeLongLines (d : Data) : List Line := writeChunks Config.maxCount (dataBytes d)

/-- The state a run is launched from (R245): the parameters, BUF and MODE, and the Host's program as the moves it will make;
FAULT = 0 and PHASE = IDLE. R245 does not name what CMD, DIN and DOUT hold at a launch that is no fresh hardware reset; all
three empty is the model's choice (assumption 24). -/
def launch (p : Params) (buf : List Byte) (mode : Mode) (plan : List Move) : State :=
  { State.reset with params := p, buf := buf, mode := mode, plan := plan }

end Sys2Proof.Machine
end

