-- ==== Sys2Proof/Machine/System.lean ====
section
/-!
DEFINITION. Several instances of the block (R38, R214): each has its own copy of every piece of state, and the instances share
only the constant tables. A step of the system is a step of one instance, in any order.
-/

namespace Sys2Proof.Machine

/-- A system of instances, by position. -/
structure System where
  /-- The state of each instance. -/
  blocks : List State
deriving DecidableEq, Repr

/-- The next state of an outcome, or `s` where there is none. -/
def outcomeState (s : State) : Host.Outcome State Fault Refusal → State
  | .next t => t
  | .fault _ => s
  | .refused _ => s

/-- One step of instance `k`; a number that no instance has changes nothing. -/
def stepBlock (k : Nat) (sys : System) : System :=
  ⟨sys.blocks.modify k fun s => outcomeState s (step s)⟩

end Sys2Proof.Machine
end

