-- ==== Sys2Proof/Safety.lean ====
section
/-!
DEFINITION. The terms claims are stated in: the holds (R160), the good end of a run and the ends that are not good (R244), what
holds of the state in every run (`State.Inv`), and when the Engine is about to take a given command.
-/

namespace Sys2Proof.Machine

/-- The kinds of hold (R160). -/
inductive Hold where
  /-- CMD-EMPTY: lifted by a Host's push to CMD. -/
  | cmdEmpty
  /-- DIN-EMPTY: lifted by a Host's push to DIN. -/
  | dinEmpty
  /-- DOUT-SPACE: lifted by a Host's pop of DOUT. -/
  | doutSpace
  /-- FAULTED: lifted by hardware reset alone. -/
  | faulted
deriving DecidableEq, Repr

/-- The word decodes to FINALIZE or GETHASH, the commands that give a digest (R160, R161). -/
def givesDigest (w : Word) : Bool :=
  match decode w with
  | .cmd .finalize => true
  | .cmd (.getHash _) => true
  | .cmd (.write _) => false
  | .cmd .reset => false
  | .err _ => false

/-- The hold the Engine is in, by the conditions of R160's table, or `none` where it has an enabled step. -/
def holdOf (s : State) : Option Hold :=
  if s.fault then some .faulted
  else
    match s.phase with
    | .idle =>
      match s.cmd with
      | [] => some .cmdEmpty
      | w :: _ => if givesDigest w && !doutHasRoom s then some .doutSpace else none
    | .wdata _ => if s.din = [] then some .dinEmpty else none
    | .gdata _ _ => if s.din = [] then some .dinEmpty else none

/-- A run ends well here (R244). -/
abbrev GoodEnd (s : State) : Prop := s.fault = false ∧ s.phase = .idle ∧ s.cmd = []

/-- Stuck on data (R244): PHASE ≠ IDLE with DIN empty. -/
abbrev StuckOnData (s : State) : Prop := s.fault = false ∧ s.phase ≠ .idle ∧ s.din = []

/-- Stuck on output (R244): a head FINALIZE or GETHASH in the DOUT-SPACE hold. -/
abbrev StuckOnOutput (s : State) : Prop := holdOf s = some .doutSpace

/-- The ranges R9 gives the open parameters. -/
abbrev ParamsInv (p : Params) : Prop :=
  allows p.cmdDepth 1 = true ∧ allows p.dinDepth 1 = true ∧ allows p.doutDepth 32 = true

/-- No channel holds more entries than its depth (R32). -/
abbrev ChannelsInv (s : State) : Prop :=
  allows s.params.cmdDepth s.cmd.length = true ∧ allows s.params.dinDepth s.din.length = true ∧
    allows s.params.doutDepth s.dout.length = true

/-- The bytes a WRITE in progress will still append to BUF (R31, R163). -/
def writeBytesLeft : Phase → Nat
  | .idle => 0
  | .wdata r => r
  | .gdata _ _ => 0

/-- BUF, with the bytes a WRITE in progress will append, fits in BUF_CAP (R27, R163). -/
abbrev BufInv (s : State) : Prop :=
  allows s.params.bufCap (s.buf.length + writeBytesLeft s.phase) = true

/-- MODE = 0 implies |BUF| = 0 (R29). -/
abbrev ModeInv (s : State) : Prop := s.mode = .empty → s.buf = []

/-- FCODE is 0 while FAULT = 0 (R30), and one of the three codes, with PHASE = IDLE, while FAULT = 1 (R163, R201). -/
abbrev FaultInv (s : State) : Prop :=
  (s.fault = false → s.fcode = 0) ∧
    (s.fault = true → s.phase = .idle ∧ (s.fcode = 1 ∨ s.fcode = 2 ∨ s.fcode = 3))

/-- The forms PHASE may take (R31): a WRITE in progress has MODE = 1 (R162), and a GETHASH in progress has the room for its
digest in DOUT (R169). -/
def phaseInv (s : State) : Bool :=
  match s.phase with
  | .idle => true
  | .wdata r => decide (1 ≤ r ∧ r ≤ Config.maxCount ∧ s.mode = .accumulating)
  | .gdata r msg => decide (1 ≤ r ∧ r + msg.length ≤ Config.maxCount) && doutHasRoom s

/-- What holds of the state in every run from hardware reset under parameters in their ranges. -/
abbrev State.Inv (s : State) : Prop :=
  ParamsInv s.params ∧ ChannelsInv s ∧ BufInv s ∧ ModeInv s ∧ FaultInv s ∧ phaseInv s = true

/-- The Engine accepts a command next: no fault, PHASE = IDLE, and `w` is the head of CMD (R161). -/
abbrev AtHead (w : Word) (s : State) : Prop :=
  s.fault = false ∧ s.phase = .idle ∧ s.cmd.head? = some w

/-- The words of WRITE commands, one for each chunk of a message (R174). -/
def writeWords (chunks : List (List Byte)) : List Word := chunks.map fun c => encode (.write c.length)

/-- The Engine steps of those commands: an accept and one data step a byte (R162, R163). -/
def writeStepCount (chunks : List (List Byte)) : Nat := (chunks.map fun c => c.length + 1).sum

/-- A command that R173 allows between two FINALIZE commands: a zero-length WRITE (`none`), or a GETHASH of a message. -/
def betweenCommand : Option (List Byte) → Instr
  | none => .write 0
  | some m => .getHash m.length

/-- The digest bytes that command pushes. -/
def betweenDigest : Option (List Byte) → List Byte
  | none => []
  | some m => keccak256 m

/-- The DIN bytes that command takes. -/
def betweenData : Option (List Byte) → List Byte
  | none => []
  | some m => m

/-- The Engine steps of such commands. -/
def betweenStepCount (ms : List (Option (List Byte))) : Nat := (ms.map fun m => (betweenData m).length + 1).sum

/-- `k` steps of the machine. -/
abbrev runSteps (k : Nat) (s : State) : Host.Outcome State Fault Refusal := Host.Core.run Sys2Proof.core k s

end Sys2Proof.Machine
end

