-- ==== Sys2Proof/Certificates/Slice0/Obligations.lean ====
section
/-!
DEFINITION. The statements for the provers, each with the rules of spec/ it formalises.
-/

open Sys2Proof Sys2Proof.Machine

/-! ## Command encoding -/

/-- R70 to R73, R77: decoding the word of a well-formed command gives the command back, for every command and every byte count
the field N admits. -/
def Obligations.EncodedCommandDecodes : Prop :=
  ∀ i : Instr, WellFormed i → decode (encode i) = .cmd i

/-- R70 to R73, R77: a word that decodes to a command is that command's encoding, and the command is well-formed. So no word is
a second spelling of a command, and no bit of it is dropped. -/
def Obligations.DecodedWordEncodes : Prop :=
  ∀ (w : Word) (i : Instr), decode w = .cmd i → encode i = w ∧ WellFormed i

/-- R77: DECODE, case by case on OP and N, on every word. -/
def Obligations.DecodeFollowsOpcodeMap : Prop :=
  ∀ w : Word,
    (opField w = 0x01 → decode w = .cmd (.write (nField w).toNat)) ∧
    (opField w = 0x02 → decode w = if nField w = 0 then .cmd .finalize else .err .reservedNonzero) ∧
    (opField w = 0x03 → decode w = if nField w = 0 then .cmd .reset else .err .reservedNonzero) ∧
    (opField w = 0x04 → decode w = .cmd (.getHash (nField w).toNat)) ∧
    (opField w ≠ 0x01 → opField w ≠ 0x02 → opField w ≠ 0x03 → opField w ≠ 0x04 → decode w = .err .illegalOpcode)

/-- R73, R77: a few of the words the spec writes out for DECODE. -/
def Obligations.WrittenOutWordsDecode : Prop :=
  decode 0x00000301 = .cmd (.write 3) ∧ decode 0x00000002 = .cmd .finalize ∧ decode 0x00000003 = .cmd .reset ∧
    decode 0x00002A04 = .cmd (.getHash 42) ∧ decode 0x00000000 = .err .illegalOpcode ∧
    decode 0x80000003 = .err .reservedNonzero ∧ decode 0x01000081 = .err .illegalOpcode

/-- The word of a well-formed command, placed where the next step takes it (assumption 15), is run by that step. -/
def Obligations.FetchedWordRuns : Prop :=
  ∀ (s : State) (i : Instr), WellFormed i →
    step (s.withFetchWord 32 (encode i).toNat) =
      exec i { s with cmd := encode i :: s.cmd.tail, phase := .idle, fault := false, fcode := 0 }

/-- R80: the command word a program line stands for, `(len(data) << 8) OR 0x01` and so on, is the encoding of its command. -/
def Obligations.ProgramLinesEncodeCommands : Prop :=
  (∀ d, dataFits d = true →
    lineWord (.write d) = some (encode (.write (dataBytes d).length)) ∧
    lineWord (.getHash d) = some (encode (.getHash (dataBytes d).length))) ∧
  lineWord .finalize = some (encode .finalize) ∧ lineWord .reset = some (encode .reset)

/-! ## A step -/

/-- R161, R184: when the head of CMD decodes to a command and ACCEPT is enabled, a step in which the Engine moves is that
command's meaning: with no move planned, with an Engine move planned (which is used up), and where the Host whose move comes
next holds (its move stays). The plan is the model's own field (assumption 2). -/
def Obligations.StepRunsTheDecodedCommand : Prop :=
  ∀ (s : State) (w : Word) (i : Instr), AtHead w s → decode w = .cmd i →
    (s.plan = [] → step s = exec i s) ∧
    (∀ rest, s.plan = .engine :: rest → step s = exec i (setPlan rest s)) ∧
    (∀ who a rest, s.plan = .host who a :: rest → hostAct who a (setPlan rest s) = none → step s = exec i s)

/-- R180 to R184: a Host's move that is enabled is made, and one that is not leaves the turn to the Engine with the move still
to come (assumption 3); an Engine move of the plan, or a plan used up (assumption 2), is the Engine's turn. -/
def Obligations.StepMakesTheHostMove : Prop :=
  ∀ s : State,
    (∀ who a rest, s.plan = .host who a :: rest →
      (∀ t, hostAct who a (setPlan rest s) = some t → step s = .next t) ∧
      (hostAct who a (setPlan rest s) = none → step s = engineStep s)) ∧
    (∀ rest, s.plan = .engine :: rest → step s = engineStep (setPlan rest s)) ∧
    (s.plan = [] → step s = engineStep s)

/-- R230 to R232, with the reset values of R39: hardware reset in any state, a command in progress or a fault included, gives the
reset value of every piece of the block's state, STATUS reads 0 and the Engine is in the CMD-EMPTY hold. That hardware reset is
a move of the plan and keeps the open sizes is the model's choice (assumption 12). -/
def Obligations.HardwareResetGivesResetState : Prop :=
  ∀ (s : State) (rest : List Move), s.plan = .hardwareReset :: rest →
    ∃ t, step s = .next t ∧ t.buf = [] ∧ t.mode = .empty ∧ t.fault = false ∧ t.fcode = 0 ∧ t.phase = .idle ∧
      t.cmd = [] ∧ t.din = [] ∧ t.dout = [] ∧ statusWord t = 0x00000000 ∧ holdOf t = some .cmdEmpty ∧ t.params = s.params

/-- R160, R171, R200: a step always answers a next state, in every state whatever, and no step changes the open parameters. -/
def Obligations.StepAlwaysAnswers : Prop :=
  ∀ s : State, ∃ t, step s = .next t ∧ t.params = s.params

/-! ## The four commands -/

/-- R161, R162: a WRITE n whose bytes fit in BUF_CAP is accepted, for every n: its word is popped, MODE becomes 1, PHASE becomes
WDATA(n), or stays IDLE for n = 0, and nothing else changes. exec is applied to an accepted command only (assumption 16). -/
def Obligations.WriteIsAccepted : Prop :=
  ∀ (n : Nat) (s : State), allows s.params.bufCap (s.buf.length + n) = true →
    exec (.write n) s = .next { s with
      cmd := s.cmd.tail, mode := .accumulating, phase := if n = 0 then .idle else .wdata n }

/-- R218: a WRITE n with |BUF| + n > BUF_CAP faults with BUF_OVERFLOW, appending nothing: the word is popped, FAULT and FCODE
are set, and nothing else changes. With BUF_CAP unbounded no WRITE overflows. -/
def Obligations.OverflowingWriteFaults : Prop :=
  ∀ (n : Nat) (s : State),
    (∀ cap, s.params.bufCap = .atMost cap → cap < s.buf.length + n →
      exec (.write n) s = .next { s with cmd := s.cmd.tail, fault := true, fcode := 3 }) ∧
    (s.params.bufCap = .unbounded → ∃ t, exec (.write n) s = .next t ∧ t.fault = s.fault)

/-- R164, R165: FINALIZE with room for a digest pops its word and pushes the digest of the whole buffer, in DOUT order, in one
step; BUF, MODE and everything else stay. exec is applied to an accepted command only (assumption 16). -/
def Obligations.FinalizePushesDigestOfBuffer : Prop :=
  ∀ s : State, allows s.params.doutDepth (s.dout.length + 32) = true →
    exec .finalize s = .next { s with cmd := s.cmd.tail, dout := s.dout ++ keccak256 s.buf }

/-- R166, R233: whenever RESET is accepted it pops its word and clears BUF and MODE; FAULT, FCODE, DIN, DOUT and everything else
stay. The Engine accepts it only with FAULT = 0 and PHASE = IDLE (R161, R205); that exec does the same in any other state is the
model's choice (assumption 16), and no step applies it there. -/
def Obligations.ResetClearsBufferAndMode : Prop :=
  ∀ s : State, exec .reset s = .next { s with cmd := s.cmd.tail, buf := [], mode := .empty }

/-- R167: GETHASH n with room for a digest pops its word; for n = 0 it pushes the digest of the empty message, and otherwise it
starts n data steps with an empty MSG. BUF, MODE and everything else stay. exec is applied to an accepted command only
(assumption 16). -/
def Obligations.GetHashIsAccepted : Prop :=
  ∀ (n : Nat) (s : State), allows s.params.doutDepth (s.dout.length + 32) = true →
    exec (.getHash n) s = .next (
      if n = 0 then { s with cmd := s.cmd.tail, dout := s.dout ++ keccak256 [] }
      else { s with cmd := s.cmd.tail, phase := .gdata n [] })

/-- R209, R160: with less room than 32 bytes in DOUT, a FINALIZE or GETHASH at the head of CMD waits with its word not popped and
nothing changed, and once k pops have made the room it is taken. That the wait is a step that answers the same state is the
model's choice (assumption 4). -/
def Obligations.DigestCommandsWaitForRoom : Prop :=
  ∀ (s : State) (w : Word), AtHead w s → s.plan = [] → (decode w = .cmd .finalize ∨ ∃ n, decode w = .cmd (.getHash n)) →
    allows s.params.doutDepth (s.dout.length + 32) = false →
    step s = .next s ∧
    ∀ k, allows s.params.doutDepth ((s.dout.drop k).length + 32) = true →
      ∃ t, step { s with dout := s.dout.drop k } = .next t ∧ t.cmd = s.cmd.tail

/-- R74: accepting a word whose OP is none of the four opcodes consumes the word and enters the fault state with FCODE 1, and
nothing else changes. -/
def Obligations.IllegalOpcodeFaults : Prop :=
  ∀ (s : State) (w : Word), AtHead w s →
    opField w ≠ 0x01 → opField w ≠ 0x02 → opField w ≠ 0x03 → opField w ≠ 0x04 →
    engineStep s = .next { s with cmd := s.cmd.tail, fault := true, fcode := 1 }

/-- R75: accepting a FINALIZE or RESET word with N ≠ 0 consumes the word and enters the fault state with FCODE 2, and nothing
else changes; a digest has no other length than 32 bytes. -/
def Obligations.ReservedFieldFaults : Prop :=
  (∀ (s : State) (w : Word), AtHead w s → (opField w = 0x02 ∨ opField w = 0x03) → nField w ≠ 0 →
    engineStep s = .next { s with cmd := s.cmd.tail, fault := true, fcode := 2 }) ∧
  ∀ m, (keccak256 m).length = 32

/-- R163: a WRITE's data step, whenever the Engine takes it, moves one byte from DIN to the end of BUF and counts it, and nothing
else changes. -/
def Obligations.WriteDataStep : Prop :=
  ∀ (s : State) (r : Nat) (b : Byte) (ds : List Byte), s.fault = false → s.phase = .wdata r → s.din = b :: ds →
    engineStep s = .next { s with
      din := ds, buf := s.buf ++ [b], phase := if r = 1 then .idle else .wdata (r - 1) }

/-- R168: a GETHASH's data step, whenever the Engine takes it, moves one byte from DIN to the end of MSG and counts it; the last
byte pushes the digest of MSG and ends the command. BUF, MODE and everything else stay. -/
def Obligations.GetHashDataStep : Prop :=
  ∀ (s : State) (r : Nat) (msg : List Byte) (b : Byte) (ds : List Byte), s.fault = false → s.phase = .gdata r msg →
    s.din = b :: ds →
    engineStep s = .next (
      if r = 1 then { s with din := ds, dout := s.dout ++ keccak256 (msg ++ [b]), phase := .idle }
      else { s with din := ds, phase := .gdata (r - 1) (msg ++ [b]) })

/-- R207, R244: with no Host move to come, a WRITE or GETHASH that lacks data waits for ever, with no timeout and no fault, and
this is no good end. -/
def Obligations.MissingDataHoldsForever : Prop :=
  ∀ (k : Nat) (s : State), s.fault = false → s.plan = [] → s.phase ≠ .idle → s.din = [] →
    runSteps k s = .next s ∧ StuckOnData s ∧ ¬ GoodEnd s

/-! ## Faults and holds -/

/-- R202, with R74, R75 and R218 for the codes: the step that enters the fault state has popped the offending word and sets
FAULT and FCODE, to the code of that word's cause, and nothing else: BUF, MODE, PHASE (IDLE), DIN, DOUT and all else stay. The
plan, which may have used up an Engine move, is the model's own field (assumption 2). -/
def Obligations.FaultEntryChangesNothingElse : Prop :=
  ∀ s t : State, s.fault = false → step s = .next t → t.fault = true →
    t = { s with cmd := s.cmd.tail, fault := true, fcode := t.fcode, plan := t.plan } ∧
    ∃ w, AtHead w s ∧
      ((decode w = .err .illegalOpcode ∧ t.fcode = 1) ∨ (decode w = .err .reservedNonzero ∧ t.fcode = 2) ∨
        (∃ n, decode w = .cmd (.write n) ∧ allows s.params.bufCap (s.buf.length + n) = false ∧ t.fcode = 3))

/-- R204: in the fault state, whatever the Hosts do and however long the run, the fault stays, BUF, MODE and PHASE stay, no word
leaves CMD, no byte leaves DIN, none enters DOUT, and no state reached is a good end. -/
def Obligations.FaultStateIsSticky : Prop :=
  ∀ (k : Nat) (s : State), s.fault = true → Move.hardwareReset ∉ s.plan →
    ∃ t, runSteps k s = .next t ∧ t.fault = true ∧ t.fcode = s.fcode ∧ t.buf = s.buf ∧ t.mode = s.mode ∧
      t.phase = s.phase ∧ s.cmd <+: t.cmd ∧ s.din <+: t.din ∧ t.dout <:+ s.dout ∧ ¬ GoodEnd t

/-- R205: only hardware reset leaves the fault state. -/
def Obligations.OnlyHardwareResetLeavesFault : Prop :=
  ∀ s t : State, s.fault = true → step s = .next t → t.fault = false → ∃ rest, s.plan = .hardwareReset :: rest

/-- R160: in each hold of the table the Engine's turn changes nothing (assumption 4), and in no other state does it hold: it
takes exactly one command word or exactly one data byte. -/
def Obligations.EngineHoldsExactlyInTheHolds : Prop :=
  ∀ s : State,
    (∀ h, holdOf s = some h → engineStep s = .next s) ∧
    (holdOf s = none → ∃ t, engineStep s = .next t ∧
      ((s.cmd ≠ [] ∧ t.cmd = s.cmd.tail ∧ t.din = s.din) ∨ (s.din ≠ [] ∧ t.din = s.din.tail ∧ t.cmd = s.cmd)))

/-- R160: a Host action that lifts a hold is the one the table names: a push to CMD, a push to DIN, a pop of DOUT; the two pushes
always lift theirs; and no Host action lifts FAULTED. -/
def Obligations.HoldsAreLiftedAsNamed : Prop :=
  (∀ (s t : State) (who : Nat) (a : HostAction) (h : Hold), holdOf s = some h → hostAct who a s = some t →
    holdOf t ≠ some h →
    (h = .cmdEmpty ∧ ∃ w, a = .pushCmd w) ∨ (h = .dinEmpty ∧ ∃ b, a = .pushDin b) ∨ (h = .doutSpace ∧ a = .popDout)) ∧
  (∀ (s t : State) (who : Nat) (w : Word), holdOf s = some .cmdEmpty → hostAct who (.pushCmd w) s = some t →
    holdOf t ≠ some .cmdEmpty) ∧
  (∀ (s t : State) (who : Nat) (b : Byte), holdOf s = some .dinEmpty → hostAct who (.pushDin b) s = some t →
    holdOf t ≠ some .dinEmpty)

/-- R238, with one Host: a Host that pushes commands ahead of a command's data deadlocks with the Engine once CMD is full, its
data pushes coming after the blocked push; and in the same way one that pushes data ahead of its command once DIN is full, the
command push coming after the blocked one. What is still to come are moves of that Host and the Engine alone. That the run then
stands still rests on two choices of the model: the held move stays first (assumption 3), and a hold is a step that answers the
same state (assumption 4). -/
def Obligations.CommandsAheadOfDataDeadlock : Prop :=
  ∀ (k : Nat) (s : State) (who : Nat) (rest : List Move), s.fault = false →
    (∀ m ∈ rest, m = .engine ∨ ∃ a, m = .host who a) →
    (∀ w, s.phase ≠ .idle → s.din = [] → s.plan = .host who (.pushCmd w) :: rest →
      allows s.params.cmdDepth (s.cmd.length + 1) = false → runSteps k s = .next s) ∧
    (∀ b, s.phase = .idle → s.cmd = [] → s.plan = .host who (.pushDin b) :: rest →
      allows s.params.dinDepth (s.din.length + 1) = false → runSteps k s = .next s)

/-! ## What holds in every run -/

/-- R39, R245, R29 to R32: the reset state meets the invariant, and so does every launch state, whatever its BUF, MODE and
program: parameters in their ranges, BUF within BUF_CAP, and BUF empty where MODE = 0. That the channels are empty at a launch
is the model's choice (assumption 24), as the sizes at reset are (assumption 1). -/
def Obligations.ResetStateMeetsInvariant : Prop :=
  State.reset.Inv ∧
    ∀ (p : Params) (buf : List Byte) (mode : Mode) (plan : List Move), ParamsInv p →
      allows p.bufCap buf.length = true → (mode = .empty → buf = []) → (launch p buf mode plan).Inv

/-- R27, R29 to R32, R163, R169, R201: every step, of whichever agent, keeps the invariant: channels within their depths, BUF
within BUF_CAP with the bytes a WRITE will still append, MODE = 0 only with BUF empty, FCODE 0 while FAULT = 0 and otherwise
1, 2 or 3 with PHASE = IDLE, PHASE in its ranges, and room in DOUT for the digest of a GETHASH in progress. -/
def Obligations.StepKeepsInvariant : Prop :=
  ∀ s t : State, s.Inv → step s = .next t → t.Inv

/-- R27: BUF changes in three ways only: a WRITE's data step appends one byte, the RESET command clears it, hardware reset
clears it. -/
def Obligations.BufferIsWrittenOnlyAsNamed : Prop :=
  ∀ s t : State, step s = .next t →
    t.buf = s.buf ∨
    (∃ r b ds, s.phase = .wdata r ∧ s.din = b :: ds ∧ t.buf = s.buf ++ [b]) ∨
    (t.buf = [] ∧ ((∃ w, AtHead w s ∧ decode w = .cmd .reset) ∨ ∃ rest, s.plan = .hardwareReset :: rest))

/-- R28: only accepting a WRITE, which sets MODE to 1, accepting RESET, which sets it to 0, and hardware reset change MODE. -/
def Obligations.ModeIsChangedOnlyAsNamed : Prop :=
  ∀ s t : State, step s = .next t → t.mode ≠ s.mode →
    (∃ w n, AtHead w s ∧ decode w = .cmd (.write n) ∧ t.mode = .accumulating) ∨
    (∃ w, AtHead w s ∧ decode w = .cmd .reset ∧ t.mode = .empty) ∨
    (∃ rest, s.plan = .hardwareReset :: rest ∧ t.mode = .empty)

/-- R170: MODE after each command, from either MODE, and after a command that faults. -/
def Obligations.ModeTransitionTable : Prop :=
  ∀ (n : Nat) (s : State),
    (allows s.params.bufCap (s.buf.length + n) = true → ∃ t, exec (.write n) s = .next t ∧ t.mode = .accumulating) ∧
    (∃ t, exec .finalize s = .next t ∧ t.mode = s.mode) ∧
    (∃ t, exec .reset s = .next t ∧ t.mode = .empty) ∧
    (∃ t, exec (.getHash n) s = .next t ∧ t.mode = s.mode) ∧
    (allows s.params.bufCap (s.buf.length + n) = false → ∃ t, exec (.write n) s = .next t ∧ t.mode = s.mode) ∧
    (∀ w k, AtHead w s → decode w = .err k → ∃ t, engineStep s = .next t ∧ t.mode = s.mode)

/-- R61, R236: while a command is in progress no step but hardware reset takes a word from CMD; words may only be added. -/
def Obligations.NoCommandIsAcceptedMidCommand : Prop :=
  ∀ s t : State, step s = .next t → s.phase ≠ .idle → (∀ rest, s.plan ≠ .hardwareReset :: rest) →
    t.cmd = s.cmd ∨ ∃ w, t.cmd = s.cmd ++ [w]

/-- R164, R167, R168, R177: what a turn of the Engine adds to DOUT is nothing, or one whole digest of 32 bytes: of BUF for
FINALIZE, of the empty message for GETHASH 0, of MSG with its last byte for GETHASH. -/
def Obligations.DigestsArePushedWhole : Prop :=
  ∀ s t : State, engineStep s = .next t →
    t.dout = s.dout ∨
    ∃ m, t.dout = s.dout ++ keccak256 m ∧ (keccak256 m).length = 32 ∧
      ((∃ w, AtHead w s ∧ decode w = .cmd .finalize ∧ m = s.buf) ∨
       (∃ w, AtHead w s ∧ decode w = .cmd (.getHash 0) ∧ m = []) ∨
       (∃ msg b ds, s.phase = .gdata 1 msg ∧ s.din = b :: ds ∧ m = msg ++ [b]))

/-- R62, R184: where the Engine has an enabled step and a Host has an enabled push or pop, the two commute: either order gives
the same state. So on runs without a hold the interleaving does not matter. -/
def Obligations.HostMovesCommuteWithEngine : Prop :=
  ∀ (who : Nat) (a : HostAction) (s s' t : State), a ≠ .readStatus → holdOf s = none →
    engineStep s = .next t → hostAct who a s = some s' →
    ∃ u, engineStep s' = .next u ∧ hostAct who a t = some u

/-! ## The Host's side -/

/-- R180 to R183: when each Host action is enabled and what it does; an action that is not enabled answers nothing. -/
def Obligations.HostActionsAsNamed : Prop :=
  ∀ (who : Nat) (s : State),
    (∀ w, hostAct who (.pushCmd w) s =
      if allows s.params.cmdDepth (s.cmd.length + 1) then some { s with cmd := s.cmd ++ [w] } else none) ∧
    (∀ b, hostAct who (.pushDin b) s =
      if allows s.params.dinDepth (s.din.length + 1) then some { s with din := s.din ++ [b] } else none) ∧
    (s.dout = [] → hostAct who .popDout s = none) ∧
    (∀ b rest, s.dout = b :: rest →
      hostAct who .popDout s = some { s with dout := rest, received := s.received ++ [(who, b)] }) ∧
    hostAct who .readStatus s = some { s with statusReads := s.statusReads ++ [(who, statusWord s)] }

/-- R33: the fields of the STATUS word, in every state, that FCODE reads 0 while FAULT = 0 in every state of a run, and that a
read gives the Host the word and has no side effect. -/
def Obligations.StatusWordFields : Prop :=
  ∀ (who : Nat) (s : State),
    ((statusWord s).getLsbD 0 = true ↔ s.mode = .accumulating) ∧
    (statusWord s).getLsbD 1 = s.fault ∧
    ((statusWord s).getLsbD 2 = true ↔ s.phase ≠ .idle) ∧
    (statusWord s).getLsbD 3 = false ∧
    (statusWord s).extractLsb' 4 4 = s.fcode ∧
    (statusWord s).extractLsb' 8 24 = 0 ∧
    (s.Inv → s.fault = false → (statusWord s).extractLsb' 4 4 = 0) ∧
    hostAct who .readStatus s = some { s with statusReads := s.statusReads ++ [(who, statusWord s)] }

/-- R79, R182: a Host that pops the bytes of a digest receives them oldest first, byte 0 before byte 31, and what stood behind
them stays. -/
def Obligations.DigestBytesReachTheHostInOrder : Prop :=
  ∀ (who : Nat) (d behind : List Byte) (s : State) (after : List Move), s.dout = d ++ behind →
    s.plan = List.replicate d.length (.host who .popDout) ++ after →
    runSteps d.length s = .next { s with
      dout := behind, plan := after, received := s.received ++ d.map fun b => (who, b) }

/-- R38, R214: a step of one instance of the block leaves every other instance as it was, and is the block's own step. -/
def Obligations.InstancesAreIndependent : Prop :=
  ∀ (sys : System) (k : Nat),
    (∀ j, j ≠ k → (stepBlock k sys).blocks[j]? = sys.blocks[j]?) ∧
    (∀ s t, sys.blocks[k]? = some s → step s = .next t → (stepBlock k sys).blocks[k]? = some t)

/-! ## Whole commands -/

/-- R78, R79, R162, R163, R237: a WRITE of a message whose bytes are in DIN takes its accept and one step a byte, appends exactly
those bytes in order, and leaves the bytes behind them in DIN and the words behind it in CMD. -/
def Obligations.WriteAppendsItsMessage : Prop :=
  ∀ (a behind : List Byte) (ws : List Word) (s : State), s.fault = false → s.phase = .idle → s.plan = [] →
    a.length ≤ Config.maxCount → s.cmd = encode (.write a.length) :: ws → s.din = a ++ behind →
    allows s.params.bufCap (s.buf.length + a.length) = true →
    runSteps (a.length + 1) s = .next { s with cmd := ws, din := behind, buf := s.buf ++ a, mode := .accumulating }

/-- R78, R79, R167, R168: a GETHASH of a message whose bytes are in DIN takes its accept and one step a byte and pushes the digest
of exactly those bytes; BUF and MODE stay. -/
def Obligations.GetHashDigestsItsMessage : Prop :=
  ∀ (a behind : List Byte) (ws : List Word) (s : State), s.fault = false → s.phase = .idle → s.plan = [] →
    a.length ≤ Config.maxCount → s.cmd = encode (.getHash a.length) :: ws → s.din = a ++ behind →
    allows s.params.doutDepth (s.dout.length + 32) = true →
    runSteps (a.length + 1) s = .next { s with cmd := ws, din := behind, dout := s.dout ++ keccak256 a }

/-- R174: from any starting BUF, WRITE commands of any number of chunks, empty ones included, and then FINALIZE push the digest
of BUF and the chunks joined: a function of the joined message alone, the same for every split of it. -/
def Obligations.StreamingAdditivity : Prop :=
  ∀ (chunks : List (List Byte)) (behind : List Byte) (ws : List Word) (s : State), s.fault = false → s.phase = .idle →
    s.plan = [] → chunks ≠ [] → (∀ c ∈ chunks, c.length ≤ Config.maxCount) →
    s.cmd = writeWords chunks ++ encode .finalize :: ws → s.din = chunks.flatten ++ behind →
    allows s.params.bufCap (s.buf.length + chunks.flatten.length) = true →
    allows s.params.doutDepth (s.dout.length + 32) = true →
    runSteps (writeStepCount chunks + 1) s = .next { s with
      cmd := ws, din := behind, buf := s.buf ++ chunks.flatten, mode := .accumulating,
      dout := s.dout ++ keccak256 (s.buf ++ chunks.flatten) }

/-- R173: two FINALIZE commands with only GETHASH commands and zero-length WRITEs between them, any number of them and in any
order, push the identical digest of BUF, before and after what those commands push. -/
def Obligations.FinalizeIsIdempotent : Prop :=
  ∀ (ms : List (Option (List Byte))) (behind : List Byte) (ws : List Word) (s : State), s.fault = false →
    s.phase = .idle → s.plan = [] → (∀ m ∈ ms, (betweenData m).length ≤ Config.maxCount) →
    s.cmd = encode .finalize :: (ms.map fun m => encode (betweenCommand m)) ++ encode .finalize :: ws →
    s.din = ms.flatMap betweenData ++ behind →
    allows s.params.bufCap s.buf.length = true →
    allows s.params.doutDepth (s.dout.length + (ms.flatMap betweenDigest).length + 64) = true →
    runSteps (betweenStepCount ms + 2) s = .next { s with
      cmd := ws, din := behind, mode := if none ∈ ms then .accumulating else s.mode,
      dout := s.dout ++ keccak256 s.buf ++ ms.flatMap betweenDigest ++ keccak256 s.buf }

/-- R175: after RESET the block runs on, under whatever moves come, exactly as a newly reset block with the same channel
contents does. FCODE = 0 is what the invariant says while FAULT = 0. -/
def Obligations.ResetEquivalence : Prop :=
  ∀ (k : Nat) (s : State) (after : List Move), AtHead (encode .reset) s → s.fcode = 0 → s.plan = .engine :: after →
    runSteps (k + 1) s = runSteps k { State.reset with
      params := s.params, cmd := s.cmd.tail, din := s.din, dout := s.dout, plan := after,
      received := s.received, statusReads := s.statusReads }

/-- R176, R81: GETHASH m pushes the same 32 bytes as RESET; WRITE m; FINALIZE (the pseudo-command HASH) on a newly reset instance,
and unlike it leaves its own instance's BUF and MODE; HASH leaves BUF = m and MODE = 1. -/
def Obligations.GetHashEquivalence : Prop :=
  ∀ (m : List Byte) (s : State) (p : Params), m.length ≤ Config.maxCount → s.fault = false → s.phase = .idle →
    s.plan = [] → s.cmd = [encode (.getHash m.length)] → s.din = m →
    allows s.params.doutDepth (s.dout.length + 32) = true →
    allows p.bufCap m.length = true → allows p.doutDepth 32 = true →
    ∃ t u, runSteps (m.length + 1) s = .next t ∧
      runSteps (m.length + 3)
        { State.reset with
          params := p, cmd := [encode .reset, encode (.write m.length), encode .finalize], din := m } = .next u ∧
      t.dout = s.dout ++ u.dout ∧ u.dout.length = 32 ∧ t.buf = s.buf ∧ t.mode = s.mode ∧ u.buf = m ∧
      u.mode = .accumulating

/-- R81: WRITE_LONG's lines are WRITE commands that R80 allows, all but the last of 2^24 − 1 bytes, and their bytes in order are
the data. R81 gives WRITE_LONG for data of at least 2^24 bytes; that the model defines it for shorter data too, and that the
statement covers them, is the model's choice (assumption 22). -/
def Obligations.WriteLongCarriesItsData : Prop :=
  ∀ d : Data, (writeLongLines d).flatMap lineDin = dataBytes d ∧
    (∀ l ∈ writeLongLines d, lineWellFormed l = true ∧ ∃ c, l = .write (.bytes c)) ∧
    (∀ l ∈ (writeLongLines d).dropLast, (lineDin l).length = Config.maxCount)

/-! ## The Permutation Core -/

/-- R100: for n in 0..63, bit k of ROTL(v, n) is bit (k − n) mod 64 of v, and rotation by 0 is the identity. -/
def Obligations.RotationMovesBits : Prop :=
  ∀ v : Lane, rotl v 0 = v ∧
    ∀ n < 64, ∀ k < 64, (rotl v n).getLsbD k = v.getLsbD ((k + 64 - n) % 64)

/-- R101: the lanes of THETA, with every parity taken of the input state, and that THETA leaves a state of even parities alone. -/
def Obligations.ThetaLanes : Prop :=
  ∀ A : KState,
    (∀ x < 5, ∀ y < 5, (theta A).lane x y =
      A.lane x y ^^^
        ((A.lane (x + 4) 0 ^^^ A.lane (x + 4) 1 ^^^ A.lane (x + 4) 2 ^^^ A.lane (x + 4) 3 ^^^ A.lane (x + 4) 4) ^^^
          rotl (A.lane (x + 1) 0 ^^^ A.lane (x + 1) 1 ^^^ A.lane (x + 1) 2 ^^^ A.lane (x + 1) 3 ^^^ A.lane (x + 1) 4) 1)) ∧
    ((∀ x < 5, columnParity A x = 0) → theta A = A)

/-- R103: PI moves the lane at (x, y) to (y, 2x + 3y), takes the lane at (X, Y) from (X + 3Y, X), fixes (0, 0), and is a
bijection on the 25 positions. -/
def Obligations.PiMovesLanes : Prop :=
  (∀ (A : KState), ∀ x < 5, ∀ y < 5,
    (piStep A).lane y ((2 * x + 3 * y) % 5) = A.lane x y ∧ (piStep A).lane x y = A.lane ((x + 3 * y) % 5) x) ∧
  (∀ A : KState, (piStep A).lane 0 0 = A.lane 0 0) ∧
  (∀ x < 5, ∀ y < 5, ∀ x' < 5, ∀ y' < 5, y = y' → (2 * x + 3 * y) % 5 = (2 * x' + 3 * y') % 5 → x = x')

/-- R102, R104: RHO rotates each lane by the amount of its own position; RHO_PI is PI after RHO and moves the lane at (x, y),
rotated by ROT[x][y] of that source position, to (y, 2x + 3y). -/
def Obligations.RhoPiMovesRotatedLanes : Prop :=
  ∀ A : KState, rhoPi A = piStep (rho A) ∧
    ∀ x < 5, ∀ y < 5, (rho A).lane x y = rotl (A.lane x y) (rot x y) ∧
      (rhoPi A).lane y ((2 * x + 3 * y) % 5) = rotl (A.lane x y) (rot x y)

/-- R105: bit k of every lane of CHI, from the three input bits at that position of its row, and that a row of zeros stays zeros
and a row of ones stays ones. -/
def Obligations.ChiMixesRows : Prop :=
  ∀ B : KState,
    (∀ x < 5, ∀ y < 5, ∀ k < 64, ((chi B).lane x y).getLsbD k =
      ((B.lane x y).getLsbD k ^^ (!(B.lane (x + 1) y).getLsbD k && (B.lane (x + 2) y).getLsbD k))) ∧
    (∀ y < 5, (∀ x < 5, B.lane x y = 0) → ∀ x < 5, (chi B).lane x y = 0) ∧
    (∀ y < 5, (∀ x < 5, B.lane x y = BitVec.allOnes 64) → ∀ x < 5, (chi B).lane x y = BitVec.allOnes 64)

/-- R106: IOTA XORs RC[i] into lane (0,0) and leaves the other 24 lanes. -/
def Obligations.IotaTouchesOneLane : Prop :=
  ∀ (A : KState) (i : Nat), ∀ x < 5, ∀ y < 5,
    (iota A i).lane x y = if x = 0 ∧ y = 0 then A.lane 0 0 ^^^ rc i else A.lane x y

/-- R110 to R113: the rotation table is what the walk of R110 generates, the round-constant table is what the LFSR of R112
generates, every constant has bits only at positions 2^j − 1, and the LFSR does not end where it began. -/
def Obligations.TablesAreGenerated : Prop :=
  (∀ x < 5, ∀ y < 5, rotGenerated x y = rot x y) ∧
    (∀ i < 24, rcGenerated i = rc i) ∧
    (∀ i < 24, ∀ k < 64, (rc i).getLsbD k = true → k ∈ [0, 1, 3, 7, 15, 31, 63]) ∧
    lfsrBefore 24 = 0x8E

/-! ## The sponge -/

/-- R53: StateXorByte XORs b into byte o and leaves the other 199 bytes. -/
def Obligations.XorByteTouchesOneByte : Prop :=
  ∀ (A : KState) (b : Byte), ∀ o < 200, ∀ o' < 200,
    stateByte (stateXorByte A o b) o' = if o' = o then stateByte A o' ^^^ b else stateByte A o'

/-- R54: neither an absorbed byte nor padding is XORed into the capacity region, bytes 136 to 199; an absorbed byte's XOR is the
one at blockOffset. -/
def Obligations.CapacityIsUntouched : Prop :=
  ∀ (p : Sponge) (b : Byte), p.off < 136 →
    (absorbByte p b).A = (if p.off = 135 then keccakF (stateXorByte p.A p.off b) else stateXorByte p.A p.off b) ∧
    ∀ o, 136 ≤ o → o < 200 →
      stateByte (stateXorByte p.A p.off b) o = stateByte p.A o ∧ stateByte (padXors p) o = stateByte p.A o

/-- R133, R134: before its permutation PAD XORs 0x01 into the byte at blockOffset and 0x80 into byte 135 and leaves every other
byte; at blockOffset 135 the two combine to 0x81 in that one byte. -/
def Obligations.PaddingTouchesTwoBytes : Prop :=
  ∀ p : Sponge, p.off < 136 →
    pad p = keccakF (padXors p) ∧
    (∀ o < 200, stateByte (padXors p) o =
      stateByte p.A o ^^^ (if o = p.off then 0x01 else 0x00) ^^^ (if o = 135 then 0x80 else 0x00)) ∧
    (p.off = 135 → stateByte (padXors p) 135 = stateByte p.A 135 ^^^ 0x81)

/-- R140: absorbing a ++ b is absorbing a and then going on byte by byte with b. -/
def Obligations.AbsorptionContinues : Prop :=
  ∀ a b : List Byte, absorb (a ++ b) = b.foldl absorbByte (absorb a)

/-- R137: KECCAK256 of a message of length L makes L div 136 + 1 calls of KECCAK_F, and the first padding byte lands at offset
L mod 136. The count is kept beside the same absorption. -/
def Obligations.PermutationCount : Prop :=
  ∀ m : List Byte, permutationCalls m = m.length / 136 + 1 ∧ (absorb m).off = m.length % 136 ∧
    (absorbCounted m).1 = absorb m

/-- R138: the padded message is a whole number of blocks, and the block-wise form gives the same digest for every message. -/
def Obligations.BlockwiseFormAgrees : Prop :=
  ∀ m : List Byte, (paddedMessage m).length % 136 = 0 ∧ keccak256 m = keccak256Blocks m

/-- R55: the digest is state bytes 0 to 31 in order, which are lanes (0,0) to (3,0), each little-endian. -/
def Obligations.DigestIsTheFirstLanes : Prop :=
  ∀ A : KState, (squeeze A).length = 32 ∧
    ∀ k < 32, (squeeze A)[k]? = some (stateByte A k) ∧
      stateByte A k = (A.lane (k / 8) 0).extractLsb' (8 * (k % 8)) 8
end

