-- ==== Sys2Proof/Laws/Decode.lean ====
section
/-!
SUPPORT. The fields of an encoded word, and what DECODE reads from each pair of fields.
-/

namespace Sys2Proof

/-- The bits of a command word: OP below bit 8, N from bit 8 (R70). -/
theorem commandWord_getLsbD (op : Byte) (n i : Nat) :
    (commandWord op n).getLsbD i = if i < 8 then op.getLsbD i else (BitVec.ofNat 24 n).getLsbD (i - 8) :=
  (BitVec.getLsbD_append (x := BitVec.ofNat 24 n) (y := op) (i := i)).trans (by split <;> simp_all)

@[simp] theorem opField_commandWord (op : Byte) (n : Nat) : opField (commandWord op n) = op := by
  apply BitVec.eq_of_getLsbD_eq
  intro i hi
  simp only [opField, BitVec.getLsbD_extractLsb', commandWord_getLsbD]
  simp [hi]

@[simp] theorem nField_commandWord (op : Byte) (n : Nat) : nField (commandWord op n) = BitVec.ofNat 24 n := by
  apply BitVec.eq_of_getLsbD_eq
  intro i hi
  simp only [nField, BitVec.getLsbD_extractLsb', commandWord_getLsbD]
  simp [hi]

/-- A word is its two fields (R70). -/
theorem commandWord_fields (w : Word) : commandWord (opField w) (nField w).toNat = w := by
  apply BitVec.eq_of_getLsbD_eq
  intro i hi
  rw [commandWord_getLsbD, BitVec.ofNat_toNat, BitVec.setWidth_eq]
  split
  · next h => simp [opField, h]
  · next h =>
    have h1 : i - 8 < 24 := by omega
    have h2 : 8 + (i - 8) = i := by omega
    simp [nField, h1, h2]

theorem nField_le (w : Word) : (nField w).toNat ≤ Config.maxCount := by
  have := (nField w).isLt
  simp only [Config.maxCount]
  omega

/-- A byte count that fits the field reads back as itself (R72). -/
theorem count_toNat {n : Nat} (h : countFits n = true) : (BitVec.ofNat 24 n).toNat = n := by
  have h' : n ≤ 16777215 := by simpa [countFits] using h
  rw [BitVec.toNat_ofNat]
  omega

/-- Every command DECODE answers fits its word (R72). -/
theorem wellFormed_of_decode {w : Word} {i : Instr} (h : decode w = .cmd i) : WellFormed i := by
  have hn : countFits (nField w).toNat = true := by simpa [countFits] using nField_le w
  simp only [decode, requireZero] at h
  split_ifs at h <;> cases h <;> first | exact hn | rfl

/-- DECODE answers one of two errors; BUF_OVERFLOW is no error of DECODE (R77). -/
theorem err_of_decode {w : Word} {k : FaultCause} (h : decode w = .err k) : k = .illegalOpcode ∨ k = .reservedNonzero := by
  simp only [decode, requireZero] at h
  split_ifs at h <;> cases h <;> simp

end Sys2Proof
end

