-- ==== Sys2Proof/Laws/State.lean ====
section
/-!
SUPPORT. Each state update, field by field: what it writes and what it leaves. Every lemma is true by unfolding the record
update once, so that no later proof unfolds one.
-/

namespace Sys2Proof.Machine

@[simp] theorem popCmd_params (s : State) : (popCmd s).params = s.params := rfl
@[simp] theorem popCmd_buf (s : State) : (popCmd s).buf = s.buf := rfl
@[simp] theorem popCmd_mode (s : State) : (popCmd s).mode = s.mode := rfl
@[simp] theorem popCmd_fault (s : State) : (popCmd s).fault = s.fault := rfl
@[simp] theorem popCmd_fcode (s : State) : (popCmd s).fcode = s.fcode := rfl
@[simp] theorem popCmd_phase (s : State) : (popCmd s).phase = s.phase := rfl
@[simp] theorem popCmd_cmd (s : State) : (popCmd s).cmd = s.cmd.tail := rfl
@[simp] theorem popCmd_din (s : State) : (popCmd s).din = s.din := rfl
@[simp] theorem popCmd_dout (s : State) : (popCmd s).dout = s.dout := rfl
@[simp] theorem popCmd_plan (s : State) : (popCmd s).plan = s.plan := rfl
@[simp] theorem popCmd_received (s : State) : (popCmd s).received = s.received := rfl
@[simp] theorem popCmd_statusReads (s : State) : (popCmd s).statusReads = s.statusReads := rfl

@[simp] theorem pushDout_params (d : List Byte) (s : State) : (pushDout d s).params = s.params := rfl
@[simp] theorem pushDout_buf (d : List Byte) (s : State) : (pushDout d s).buf = s.buf := rfl
@[simp] theorem pushDout_mode (d : List Byte) (s : State) : (pushDout d s).mode = s.mode := rfl
@[simp] theorem pushDout_fault (d : List Byte) (s : State) : (pushDout d s).fault = s.fault := rfl
@[simp] theorem pushDout_fcode (d : List Byte) (s : State) : (pushDout d s).fcode = s.fcode := rfl
@[simp] theorem pushDout_phase (d : List Byte) (s : State) : (pushDout d s).phase = s.phase := rfl
@[simp] theorem pushDout_cmd (d : List Byte) (s : State) : (pushDout d s).cmd = s.cmd := rfl
@[simp] theorem pushDout_din (d : List Byte) (s : State) : (pushDout d s).din = s.din := rfl
@[simp] theorem pushDout_dout (d : List Byte) (s : State) : (pushDout d s).dout = s.dout ++ d := rfl
@[simp] theorem pushDout_plan (d : List Byte) (s : State) : (pushDout d s).plan = s.plan := rfl
@[simp] theorem pushDout_received (d : List Byte) (s : State) : (pushDout d s).received = s.received := rfl
@[simp] theorem pushDout_statusReads (d : List Byte) (s : State) : (pushDout d s).statusReads = s.statusReads := rfl

@[simp] theorem appendBuf_params (b : Byte) (s : State) : (appendBuf b s).params = s.params := rfl
@[simp] theorem appendBuf_buf (b : Byte) (s : State) : (appendBuf b s).buf = s.buf ++ [b] := rfl
@[simp] theorem appendBuf_mode (b : Byte) (s : State) : (appendBuf b s).mode = s.mode := rfl
@[simp] theorem appendBuf_fault (b : Byte) (s : State) : (appendBuf b s).fault = s.fault := rfl
@[simp] theorem appendBuf_fcode (b : Byte) (s : State) : (appendBuf b s).fcode = s.fcode := rfl
@[simp] theorem appendBuf_phase (b : Byte) (s : State) : (appendBuf b s).phase = s.phase := rfl
@[simp] theorem appendBuf_cmd (b : Byte) (s : State) : (appendBuf b s).cmd = s.cmd := rfl
@[simp] theorem appendBuf_din (b : Byte) (s : State) : (appendBuf b s).din = s.din := rfl
@[simp] theorem appendBuf_dout (b : Byte) (s : State) : (appendBuf b s).dout = s.dout := rfl
@[simp] theorem appendBuf_plan (b : Byte) (s : State) : (appendBuf b s).plan = s.plan := rfl
@[simp] theorem appendBuf_received (b : Byte) (s : State) : (appendBuf b s).received = s.received := rfl
@[simp] theorem appendBuf_statusReads (b : Byte) (s : State) : (appendBuf b s).statusReads = s.statusReads := rfl

@[simp] theorem clearBuf_params (s : State) : (clearBuf s).params = s.params := rfl
@[simp] theorem clearBuf_buf (s : State) : (clearBuf s).buf = [] := rfl
@[simp] theorem clearBuf_mode (s : State) : (clearBuf s).mode = .empty := rfl
@[simp] theorem clearBuf_fault (s : State) : (clearBuf s).fault = s.fault := rfl
@[simp] theorem clearBuf_fcode (s : State) : (clearBuf s).fcode = s.fcode := rfl
@[simp] theorem clearBuf_phase (s : State) : (clearBuf s).phase = s.phase := rfl
@[simp] theorem clearBuf_cmd (s : State) : (clearBuf s).cmd = s.cmd := rfl
@[simp] theorem clearBuf_din (s : State) : (clearBuf s).din = s.din := rfl
@[simp] theorem clearBuf_dout (s : State) : (clearBuf s).dout = s.dout := rfl
@[simp] theorem clearBuf_plan (s : State) : (clearBuf s).plan = s.plan := rfl
@[simp] theorem clearBuf_received (s : State) : (clearBuf s).received = s.received := rfl
@[simp] theorem clearBuf_statusReads (s : State) : (clearBuf s).statusReads = s.statusReads := rfl

@[simp] theorem setPhase_params (p : Phase) (s : State) : (setPhase p s).params = s.params := rfl
@[simp] theorem setPhase_buf (p : Phase) (s : State) : (setPhase p s).buf = s.buf := rfl
@[simp] theorem setPhase_mode (p : Phase) (s : State) : (setPhase p s).mode = s.mode := rfl
@[simp] theorem setPhase_fault (p : Phase) (s : State) : (setPhase p s).fault = s.fault := rfl
@[simp] theorem setPhase_fcode (p : Phase) (s : State) : (setPhase p s).fcode = s.fcode := rfl
@[simp] theorem setPhase_phase (p : Phase) (s : State) : (setPhase p s).phase = p := rfl
@[simp] theorem setPhase_cmd (p : Phase) (s : State) : (setPhase p s).cmd = s.cmd := rfl
@[simp] theorem setPhase_din (p : Phase) (s : State) : (setPhase p s).din = s.din := rfl
@[simp] theorem setPhase_dout (p : Phase) (s : State) : (setPhase p s).dout = s.dout := rfl
@[simp] theorem setPhase_plan (p : Phase) (s : State) : (setPhase p s).plan = s.plan := rfl
@[simp] theorem setPhase_received (p : Phase) (s : State) : (setPhase p s).received = s.received := rfl
@[simp] theorem setPhase_statusReads (p : Phase) (s : State) : (setPhase p s).statusReads = s.statusReads := rfl

@[simp] theorem setMode_params (m : Mode) (s : State) : (setMode m s).params = s.params := rfl
@[simp] theorem setMode_buf (m : Mode) (s : State) : (setMode m s).buf = s.buf := rfl
@[simp] theorem setMode_mode (m : Mode) (s : State) : (setMode m s).mode = m := rfl
@[simp] theorem setMode_fault (m : Mode) (s : State) : (setMode m s).fault = s.fault := rfl
@[simp] theorem setMode_fcode (m : Mode) (s : State) : (setMode m s).fcode = s.fcode := rfl
@[simp] theorem setMode_phase (m : Mode) (s : State) : (setMode m s).phase = s.phase := rfl
@[simp] theorem setMode_cmd (m : Mode) (s : State) : (setMode m s).cmd = s.cmd := rfl
@[simp] theorem setMode_din (m : Mode) (s : State) : (setMode m s).din = s.din := rfl
@[simp] theorem setMode_dout (m : Mode) (s : State) : (setMode m s).dout = s.dout := rfl
@[simp] theorem setMode_plan (m : Mode) (s : State) : (setMode m s).plan = s.plan := rfl
@[simp] theorem setMode_received (m : Mode) (s : State) : (setMode m s).received = s.received := rfl
@[simp] theorem setMode_statusReads (m : Mode) (s : State) : (setMode m s).statusReads = s.statusReads := rfl

@[simp] theorem setDin_params (ds : List Byte) (s : State) : (setDin ds s).params = s.params := rfl
@[simp] theorem setDin_buf (ds : List Byte) (s : State) : (setDin ds s).buf = s.buf := rfl
@[simp] theorem setDin_mode (ds : List Byte) (s : State) : (setDin ds s).mode = s.mode := rfl
@[simp] theorem setDin_fault (ds : List Byte) (s : State) : (setDin ds s).fault = s.fault := rfl
@[simp] theorem setDin_fcode (ds : List Byte) (s : State) : (setDin ds s).fcode = s.fcode := rfl
@[simp] theorem setDin_phase (ds : List Byte) (s : State) : (setDin ds s).phase = s.phase := rfl
@[simp] theorem setDin_cmd (ds : List Byte) (s : State) : (setDin ds s).cmd = s.cmd := rfl
@[simp] theorem setDin_din (ds : List Byte) (s : State) : (setDin ds s).din = ds := rfl
@[simp] theorem setDin_dout (ds : List Byte) (s : State) : (setDin ds s).dout = s.dout := rfl
@[simp] theorem setDin_plan (ds : List Byte) (s : State) : (setDin ds s).plan = s.plan := rfl
@[simp] theorem setDin_received (ds : List Byte) (s : State) : (setDin ds s).received = s.received := rfl
@[simp] theorem setDin_statusReads (ds : List Byte) (s : State) : (setDin ds s).statusReads = s.statusReads := rfl

@[simp] theorem setPlan_params (rest : List Move) (s : State) : (setPlan rest s).params = s.params := rfl
@[simp] theorem setPlan_buf (rest : List Move) (s : State) : (setPlan rest s).buf = s.buf := rfl
@[simp] theorem setPlan_mode (rest : List Move) (s : State) : (setPlan rest s).mode = s.mode := rfl
@[simp] theorem setPlan_fault (rest : List Move) (s : State) : (setPlan rest s).fault = s.fault := rfl
@[simp] theorem setPlan_fcode (rest : List Move) (s : State) : (setPlan rest s).fcode = s.fcode := rfl
@[simp] theorem setPlan_phase (rest : List Move) (s : State) : (setPlan rest s).phase = s.phase := rfl
@[simp] theorem setPlan_cmd (rest : List Move) (s : State) : (setPlan rest s).cmd = s.cmd := rfl
@[simp] theorem setPlan_din (rest : List Move) (s : State) : (setPlan rest s).din = s.din := rfl
@[simp] theorem setPlan_dout (rest : List Move) (s : State) : (setPlan rest s).dout = s.dout := rfl
@[simp] theorem setPlan_plan (rest : List Move) (s : State) : (setPlan rest s).plan = rest := rfl
@[simp] theorem setPlan_received (rest : List Move) (s : State) : (setPlan rest s).received = s.received := rfl
@[simp] theorem setPlan_statusReads (rest : List Move) (s : State) : (setPlan rest s).statusReads = s.statusReads := rfl

@[simp] theorem raiseFault_params (k : FaultCause) (s : State) : (raiseFault k s).params = s.params := rfl
@[simp] theorem raiseFault_buf (k : FaultCause) (s : State) : (raiseFault k s).buf = s.buf := rfl
@[simp] theorem raiseFault_mode (k : FaultCause) (s : State) : (raiseFault k s).mode = s.mode := rfl
@[simp] theorem raiseFault_fault (k : FaultCause) (s : State) : (raiseFault k s).fault = true := rfl
@[simp] theorem raiseFault_fcode (k : FaultCause) (s : State) : (raiseFault k s).fcode = fcodeOf k := rfl
@[simp] theorem raiseFault_phase (k : FaultCause) (s : State) : (raiseFault k s).phase = s.phase := rfl
@[simp] theorem raiseFault_cmd (k : FaultCause) (s : State) : (raiseFault k s).cmd = s.cmd := rfl
@[simp] theorem raiseFault_din (k : FaultCause) (s : State) : (raiseFault k s).din = s.din := rfl
@[simp] theorem raiseFault_dout (k : FaultCause) (s : State) : (raiseFault k s).dout = s.dout := rfl
@[simp] theorem raiseFault_plan (k : FaultCause) (s : State) : (raiseFault k s).plan = s.plan := rfl
@[simp] theorem raiseFault_received (k : FaultCause) (s : State) : (raiseFault k s).received = s.received := rfl
@[simp] theorem raiseFault_statusReads (k : FaultCause) (s : State) : (raiseFault k s).statusReads = s.statusReads := rfl

@[simp] theorem rejectCommand_params (k : FaultCause) (s : State) : (rejectCommand k s).params = s.params := rfl
@[simp] theorem rejectCommand_buf (k : FaultCause) (s : State) : (rejectCommand k s).buf = s.buf := rfl
@[simp] theorem rejectCommand_mode (k : FaultCause) (s : State) : (rejectCommand k s).mode = s.mode := rfl
@[simp] theorem rejectCommand_fault (k : FaultCause) (s : State) : (rejectCommand k s).fault = true := rfl
@[simp] theorem rejectCommand_fcode (k : FaultCause) (s : State) : (rejectCommand k s).fcode = fcodeOf k := rfl
@[simp] theorem rejectCommand_phase (k : FaultCause) (s : State) : (rejectCommand k s).phase = s.phase := rfl
@[simp] theorem rejectCommand_cmd (k : FaultCause) (s : State) : (rejectCommand k s).cmd = s.cmd.tail := rfl
@[simp] theorem rejectCommand_din (k : FaultCause) (s : State) : (rejectCommand k s).din = s.din := rfl
@[simp] theorem rejectCommand_dout (k : FaultCause) (s : State) : (rejectCommand k s).dout = s.dout := rfl
@[simp] theorem rejectCommand_plan (k : FaultCause) (s : State) : (rejectCommand k s).plan = s.plan := rfl
@[simp] theorem rejectCommand_received (k : FaultCause) (s : State) : (rejectCommand k s).received = s.received := rfl
@[simp] theorem rejectCommand_statusReads (k : FaultCause) (s : State) : (rejectCommand k s).statusReads = s.statusReads := rfl

@[simp] theorem hardwareReset_params (s : State) : (hardwareReset s).params = s.params := rfl
@[simp] theorem hardwareReset_buf (s : State) : (hardwareReset s).buf = [] := rfl
@[simp] theorem hardwareReset_mode (s : State) : (hardwareReset s).mode = .empty := rfl
@[simp] theorem hardwareReset_fault (s : State) : (hardwareReset s).fault = false := rfl
@[simp] theorem hardwareReset_fcode (s : State) : (hardwareReset s).fcode = 0 := rfl
@[simp] theorem hardwareReset_phase (s : State) : (hardwareReset s).phase = .idle := rfl
@[simp] theorem hardwareReset_cmd (s : State) : (hardwareReset s).cmd = [] := rfl
@[simp] theorem hardwareReset_din (s : State) : (hardwareReset s).din = [] := rfl
@[simp] theorem hardwareReset_dout (s : State) : (hardwareReset s).dout = [] := rfl
@[simp] theorem hardwareReset_plan (s : State) : (hardwareReset s).plan = s.plan := rfl
@[simp] theorem hardwareReset_received (s : State) : (hardwareReset s).received = s.received := rfl
@[simp] theorem hardwareReset_statusReads (s : State) : (hardwareReset s).statusReads = s.statusReads := rfl

@[simp] theorem placeCommand_params (w : Word) (s : State) : (placeCommand w s).params = s.params := rfl
@[simp] theorem placeCommand_buf (w : Word) (s : State) : (placeCommand w s).buf = s.buf := rfl
@[simp] theorem placeCommand_mode (w : Word) (s : State) : (placeCommand w s).mode = s.mode := rfl
@[simp] theorem placeCommand_fault (w : Word) (s : State) : (placeCommand w s).fault = false := rfl
@[simp] theorem placeCommand_fcode (w : Word) (s : State) : (placeCommand w s).fcode = 0 := rfl
@[simp] theorem placeCommand_phase (w : Word) (s : State) : (placeCommand w s).phase = .idle := rfl
@[simp] theorem placeCommand_cmd (w : Word) (s : State) : (placeCommand w s).cmd = w :: s.cmd.tail := rfl
@[simp] theorem placeCommand_din (w : Word) (s : State) : (placeCommand w s).din = s.din := rfl
@[simp] theorem placeCommand_dout (w : Word) (s : State) : (placeCommand w s).dout = s.dout := rfl
@[simp] theorem placeCommand_plan (w : Word) (s : State) : (placeCommand w s).plan = if s.plan = [] then [] else .engine :: s.plan := rfl
@[simp] theorem placeCommand_received (w : Word) (s : State) : (placeCommand w s).received = s.received := rfl
@[simp] theorem placeCommand_statusReads (w : Word) (s : State) : (placeCommand w s).statusReads = s.statusReads := rfl

end Sys2Proof.Machine
end

