-- ==== Sys2Proof/Laws/Engine.lean ====
section
/-!
SUPPORT. What each meaning, each Engine step, each Host action and a whole step can do, said once: a proof about all of them
cites these lemmas and unfolds none of the functions.
-/

namespace Sys2Proof.Machine

/-- WRITE n answers one of two states (R161, R162). -/
theorem exec_write (n : Nat) (s : State) :
    exec (.write n) s = .next (if bufferAccepts n s then
      setPhase (writePhase n) (setMode .accumulating (popCmd s)) else rejectCommand .bufOverflow s) := by
  simp only [exec, execWrite]
  split <;> rfl

/-- FINALIZE answers one of two states (R161, R164). -/
theorem exec_finalize (s : State) :
    exec .finalize s = .next (if doutHasRoom s then pushDout (keccak256 s.buf) (popCmd s) else s) := by
  simp only [exec, execFinalize]
  split <;> rfl

/-- RESET answers one state (R166). -/
theorem exec_reset (s : State) : exec .reset s = .next (clearBuf (popCmd s)) := rfl

/-- GETHASH n answers one of three states (R161, R167). -/
theorem exec_getHash (n : Nat) (s : State) :
    exec (.getHash n) s = .next (if doutHasRoom s then
      (if n = 0 then pushDout (keccak256 []) (popCmd s) else setPhase (.gdata n []) (popCmd s)) else s) := by
  simp only [exec, execGetHash]
  split
  · split <;> rfl
  · rfl

/-- Every instruction answers a next state. -/
theorem exec_isNext (i : Instr) (s : State) : ∃ t, exec i s = .next t := by
  cases i with
  | write n => exact ⟨_, exec_write n s⟩
  | finalize => exact ⟨_, exec_finalize s⟩
  | reset => exact ⟨_, exec_reset s⟩
  | getHash n => exact ⟨_, exec_getHash n s⟩

/-- What a turn of the Engine can do (R160): hold, reject a word, perform a command, or take one data byte. -/
theorem engineStep_cases {s t : State} (h : engineStep s = .next t) :
    t = s ∨
    (∃ w ws k, s.fault = false ∧ s.phase = .idle ∧ s.cmd = w :: ws ∧ decode w = .err k ∧ t = rejectCommand k s) ∨
    (∃ w ws i, s.fault = false ∧ s.phase = .idle ∧ s.cmd = w :: ws ∧ decode w = .cmd i ∧ exec i s = .next t) ∨
    (∃ r b ds, s.fault = false ∧ s.phase = .wdata r ∧ s.din = b :: ds ∧
      t = setPhase (afterWriteByte r) (appendBuf b (setDin ds s))) ∨
    (∃ r msg b ds, s.fault = false ∧ s.phase = .gdata r msg ∧ s.din = b :: ds ∧
      t = gdataFinish r (msg ++ [b]) (setDin ds s)) := by
  unfold engineStep at h
  split at h
  · exact .inl (by cases h; rfl)
  · next hf =>
    have hf : s.fault = false := by simpa using hf
    split at h
    · next hp =>
      unfold acceptStep at h
      split at h
      · exact .inl (by cases h; rfl)
      · next w ws hc =>
        unfold acceptWord at h
        split at h
        · next k hd => exact .inr (.inl ⟨w, ws, k, hf, hp, hc, hd, by cases h; rfl⟩)
        · next i hd => exact .inr (.inr (.inl ⟨w, ws, i, hf, hp, hc, hd, h⟩))
    · next r hp =>
      unfold wdataStep at h
      split at h
      · exact .inl (by cases h; rfl)
      · next b ds hd => exact .inr (.inr (.inr (.inl ⟨r, b, ds, hf, hp, hd, by cases h; rfl⟩)))
    · next r msg hp =>
      unfold gdataStep at h
      split at h
      · exact .inl (by cases h; rfl)
      · next b ds hd => exact .inr (.inr (.inr (.inr ⟨r, msg, b, ds, hf, hp, hd, by cases h; rfl⟩)))

/-- A turn of the Engine answers a next state, a hold being the state itself (R160). -/
theorem engineStep_isNext (s : State) : ∃ t, engineStep s = .next t := by
  unfold engineStep acceptStep acceptWord wdataStep gdataStep
  repeat' split
  all_goals first | exact ⟨_, rfl⟩ | exact exec_isNext _ _

/-- The Engine holds in the fault state (R171). -/
theorem engineStep_faulted {s : State} (h : s.fault = true) : engineStep s = .next s := by
  simp [engineStep, h]

/-- ACCEPT of a word that decodes to a command is that command's meaning (R161). -/
theorem engineStep_accept {s : State} {w : Word} {ws : List Word} {i : Instr} (hf : s.fault = false)
    (hp : s.phase = .idle) (hc : s.cmd = w :: ws) (hd : decode w = .cmd i) : engineStep s = exec i s := by
  simp [engineStep, acceptStep, acceptWord, hf, hp, hc, hd]

/-- ACCEPT of a word that decodes to an error (R161). -/
theorem engineStep_reject {s : State} {w : Word} {ws : List Word} {k : FaultCause} (hf : s.fault = false)
    (hp : s.phase = .idle) (hc : s.cmd = w :: ws) (hd : decode w = .err k) :
    engineStep s = .next (rejectCommand k s) := by
  simp [engineStep, acceptStep, acceptWord, hf, hp, hc, hd]

/-- WDATA with a byte in DIN (R163). -/
theorem engineStep_wdata {s : State} {r : Nat} {b : Byte} {ds : List Byte} (hf : s.fault = false)
    (hp : s.phase = .wdata r) (hd : s.din = b :: ds) :
    engineStep s = .next (setPhase (afterWriteByte r) (appendBuf b (setDin ds s))) := by
  simp [engineStep, wdataStep, hf, hp, hd]

/-- GDATA with a byte in DIN (R168). -/
theorem engineStep_gdata {s : State} {r : Nat} {msg : List Byte} {b : Byte} {ds : List Byte} (hf : s.fault = false)
    (hp : s.phase = .gdata r msg) (hd : s.din = b :: ds) :
    engineStep s = .next (gdataFinish r (msg ++ [b]) (setDin ds s)) := by
  simp [engineStep, gdataStep, hf, hp, hd]

/-- A data step with DIN empty holds (R207). -/
theorem engineStep_dinEmpty {s : State} (hf : s.fault = false) (hp : s.phase ≠ .idle) (hd : s.din = []) :
    engineStep s = .next s := by
  unfold engineStep wdataStep gdataStep
  cases h : s.phase <;> simp_all

/-- What a Host's action does where it is enabled (R180 to R183). -/
theorem hostAct_cases {who : Nat} {a : HostAction} {s t : State} (h : hostAct who a s = some t) :
    (∃ w, a = .pushCmd w ∧ allows s.params.cmdDepth (s.cmd.length + 1) = true ∧ t = { s with cmd := s.cmd ++ [w] }) ∨
    (∃ b, a = .pushDin b ∧ allows s.params.dinDepth (s.din.length + 1) = true ∧ t = { s with din := s.din ++ [b] }) ∨
    (∃ b rest, a = .popDout ∧ s.dout = b :: rest ∧
      t = { s with dout := rest, received := s.received ++ [(who, b)] }) ∨
    (a = .readStatus ∧ t = { s with statusReads := s.statusReads ++ [(who, statusWord s)] }) := by
  cases a with
  | pushCmd w =>
    simp only [hostAct, hostPushCmd] at h
    split at h
    · next hc => exact .inl ⟨w, rfl, hc, by cases h; rfl⟩
    · cases h
  | pushDin b =>
    simp only [hostAct, hostPushDin] at h
    split at h
    · next hc => exact .inr (.inl ⟨b, rfl, hc, by cases h; rfl⟩)
    · cases h
  | popDout =>
    simp only [hostAct, hostPopDout] at h
    split at h
    · cases h
    · next b rest hd => exact .inr (.inr (.inl ⟨b, rest, rfl, hd, by cases h; rfl⟩))
  | readStatus => exact .inr (.inr (.inr ⟨rfl, by cases h; rfl⟩))

/-- What a step can do (R184): a turn of the Engine, a Host's action, or hardware reset. -/
theorem step_cases {s t : State} (h : step s = .next t) :
    (s.plan = [] ∧ engineStep s = .next t) ∨
    (∃ rest, s.plan = .engine :: rest ∧ engineStep (setPlan rest s) = .next t) ∨
    (∃ who a rest, s.plan = .host who a :: rest ∧ hostAct who a (setPlan rest s) = some t) ∨
    (∃ who a rest, s.plan = .host who a :: rest ∧ hostAct who a (setPlan rest s) = none ∧ engineStep s = .next t) ∨
    (∃ rest, s.plan = .hardwareReset :: rest ∧ t = hardwareReset (setPlan rest s)) := by
  unfold step takeTurn at h
  split at h
  · next hp => exact .inl ⟨hp, h⟩
  · next rest hp => exact .inr (.inl ⟨rest, hp, h⟩)
  · next who a rest hp =>
    unfold hostTurn at h
    split at h
    · next u hu => exact .inr (.inr (.inl ⟨who, a, rest, hp, by cases h; exact hu⟩))
    · next hu => exact .inr (.inr (.inr (.inl ⟨who, a, rest, hp, hu, h⟩)))
  · next rest hp => exact .inr (.inr (.inr (.inr ⟨rest, hp, by cases h; rfl⟩)))

/-- With no move planned a step is the Engine's turn. -/
theorem step_noPlan {s : State} (h : s.plan = []) : step s = engineStep s := by
  simp [step, takeTurn, h]

/-- An Engine move of the plan is the Engine's turn. -/
theorem step_engine {s : State} {rest : List Move} (h : s.plan = .engine :: rest) :
    step s = engineStep (setPlan rest s) := by
  simp [step, takeTurn, h]

/-- An enabled Host move of the plan is that action. -/
theorem step_host {s t : State} {who : Nat} {a : HostAction} {rest : List Move} (h : s.plan = .host who a :: rest)
    (ha : hostAct who a (setPlan rest s) = some t) : step s = .next t := by
  simp [step, takeTurn, hostTurn, h, ha]

/-- A Host move that is not enabled leaves the Engine the turn (R180, R181). -/
theorem step_hostHolds {s : State} {who : Nat} {a : HostAction} {rest : List Move} (h : s.plan = .host who a :: rest)
    (ha : hostAct who a (setPlan rest s) = none) : step s = engineStep s := by
  simp [step, takeTurn, hostTurn, h, ha]

/-- A reset move of the plan is hardware reset. -/
theorem step_hardwareReset {s : State} {rest : List Move} (h : s.plan = .hardwareReset :: rest) :
    step s = .next (hardwareReset (setPlan rest s)) := by
  simp [step, takeTurn, h]

end Sys2Proof.Machine
end

