-- ==== Sys2Proof/Laws/Keccak.lean ====
section
/-!
SUPPORT. Reading and writing lanes of the Keccak state, and the small facts of the step mappings and the sponge that every
proof about the datapath uses.
-/

namespace Sys2Proof.Machine

/-- Reading a lane of a built state (R16): the function at the coordinates modulo 5. -/
@[simp] theorem lane_build (f : Nat → Nat → Lane) (x y : Nat) :
    (KState.build f).lane x y = f (x % 5) (y % 5) := by
  have hx : x % 5 < 5 := Nat.mod_lt _ (by decide)
  have hy : y % 5 < 5 := Nat.mod_lt _ (by decide)
  simp only [KState.lane]
  generalize x % 5 = x' at hx
  generalize y % 5 = y' at hy
  interval_cases x' <;> interval_cases y' <;> rfl

/-- Coordinates are taken modulo 5 (R13). -/
@[simp] theorem lane_mod (A : KState) (x y : Nat) : A.lane (x % 5) (y % 5) = A.lane x y := by
  simp only [KState.lane, Nat.mod_mod]

/-- Two states with the same 25 lanes are equal (R20). -/
theorem kstate_ext {A B : KState} (h : ∀ x < 5, ∀ y < 5, A.lane x y = B.lane x y) : A = B := by
  obtain ⟨⟨a, b, c, d, e⟩, ⟨f, g, h1, i, j⟩, ⟨k, l, m, n, o⟩, ⟨p, q, r, s, t⟩, ⟨u, v, w, x, y⟩⟩ := A
  obtain ⟨⟨a', b', c', d', e'⟩, ⟨f', g', h', i', j'⟩, ⟨k', l', m', n', o'⟩, ⟨p', q', r', s', t'⟩,
    ⟨u', v', w', x', y'⟩⟩ := B
  have key : ∀ x' < 5, ∀ y' < 5, _ := h
  have e00 := key 0 (by decide) 0 (by decide)
  have e01 := key 0 (by decide) 1 (by decide)
  have e02 := key 0 (by decide) 2 (by decide)
  have e03 := key 0 (by decide) 3 (by decide)
  have e04 := key 0 (by decide) 4 (by decide)
  have e10 := key 1 (by decide) 0 (by decide)
  have e11 := key 1 (by decide) 1 (by decide)
  have e12 := key 1 (by decide) 2 (by decide)
  have e13 := key 1 (by decide) 3 (by decide)
  have e14 := key 1 (by decide) 4 (by decide)
  have e20 := key 2 (by decide) 0 (by decide)
  have e21 := key 2 (by decide) 1 (by decide)
  have e22 := key 2 (by decide) 2 (by decide)
  have e23 := key 2 (by decide) 3 (by decide)
  have e24 := key 2 (by decide) 4 (by decide)
  have e30 := key 3 (by decide) 0 (by decide)
  have e31 := key 3 (by decide) 1 (by decide)
  have e32 := key 3 (by decide) 2 (by decide)
  have e33 := key 3 (by decide) 3 (by decide)
  have e34 := key 3 (by decide) 4 (by decide)
  have e40 := key 4 (by decide) 0 (by decide)
  have e41 := key 4 (by decide) 1 (by decide)
  have e42 := key 4 (by decide) 2 (by decide)
  have e43 := key 4 (by decide) 3 (by decide)
  have e44 := key 4 (by decide) 4 (by decide)
  simp only [KState.lane, KState.column, Column.lane] at *
  subst_vars
  rfl

/-- Reading a lane after writing one (R15): the written lane at its own coordinates, every other lane as before. -/
theorem lane_setLane (A : KState) (x y x' y' : Nat) (v : Lane) :
    (A.setLane x y v).lane x' y' = if x' % 5 = x % 5 ∧ y' % 5 = y % 5 then v else A.lane x' y' := by
  have h1 : x % 5 < 5 := Nat.mod_lt _ (by decide)
  have h2 : y % 5 < 5 := Nat.mod_lt _ (by decide)
  have h3 : x' % 5 < 5 := Nat.mod_lt _ (by decide)
  have h4 : y' % 5 < 5 := Nat.mod_lt _ (by decide)
  simp only [KState.lane, KState.setLane]
  generalize x % 5 = a at *
  generalize y % 5 = b at *
  generalize x' % 5 = c at *
  generalize y' % 5 = d at *
  interval_cases a <;> interval_cases c <;> first | rfl | skip
  all_goals interval_cases b <;> interval_cases d <;> rfl

@[simp] theorem lane_zero (x y : Nat) : KState.zero.lane x y = 0 := by
  simp [KState.zero]

/-- SQUEEZE gives 32 bytes (R135). -/
@[simp] theorem length_squeeze (A : KState) : (squeeze A).length = 32 := by
  simp [squeeze]

/-- A digest is 32 bytes long (R139). -/
@[simp] theorem length_keccak256 (m : List Byte) : (keccak256 m).length = 32 :=
  length_squeeze _

/-- ABSORB of one more byte (R132). -/
theorem absorb_snoc (m : List Byte) (b : Byte) : absorb (m ++ [b]) = absorbByte (absorb m) b := by
  simp [absorb]

/-- ABSORB_BYTE keeps blockOffset in 0..135 (R131). -/
theorem absorbByte_off_lt {p : Sponge} (h : p.off < 136) (b : Byte) : (absorbByte p b).off < 136 := by
  simp only [absorbByte, Config.rate]
  split
  · exact Nat.zero_lt_succ _
  · show p.off + 1 < 136
    omega

end Sys2Proof.Machine
end

