-- ==== Sys2Proof/Laws/PerInstr.lean ====
section
/-!
SUPPORT. The statement made of every instruction as syntax: the two fields of its encoded word (R70 to R73).
-/

namespace Sys2Proof.Laws.EncodedFields

/-- The word of a command carries its opcode in OP and, if it is well-formed, its count in N. -/
def Statement (i : Instr) : Prop :=
  opField (encode i) = i.opcode ∧ (WellFormed i → (nField (encode i)).toNat = i.count)

theorem write (n : Nat) : Statement (.write n) :=
  ⟨by simp [encode], fun h => by simpa [encode, Instr.count] using count_toNat h⟩

theorem finalize : Statement .finalize :=
  ⟨by simp [encode], fun _ => by simp [encode, Instr.count]⟩

theorem reset : Statement .reset :=
  ⟨by simp [encode], fun _ => by simp [encode, Instr.count]⟩

theorem getHash (n : Nat) : Statement (.getHash n) :=
  ⟨by simp [encode], fun h => by simpa [encode, Instr.count] using count_toNat h⟩

end Sys2Proof.Laws.EncodedFields
end

