-- ==== Sys2Proof/Laws/Run.lean ====
section
/-!
SUPPORT. Runs of several steps, and the sizes an open parameter allows.
-/

namespace Sys2Proof.Machine

@[simp] theorem runSteps_zero (s : State) : runSteps 0 s = .next s := rfl

/-- One step first, then the rest. -/
theorem runSteps_succ {s t : State} (k : Nat) (h : step s = .next t) : runSteps (k + 1) s = runSteps k t := by
  have hc : Sys2Proof.core.step s = .next t := h
  simp only [runSteps, Host.Core.run, hc]
  rfl

/-- A step with no next state would end the run; every step of this machine has one. -/
theorem step_isNext (s : State) : ∃ t, step s = .next t := by
  unfold step takeTurn hostTurn
  repeat' split
  all_goals first | exact engineStep_isNext _ | exact ⟨_, rfl⟩

/-- Runs compose. -/
theorem runSteps_add {s t : State} {j : Nat} (k : Nat) (h : runSteps j s = .next t) :
    runSteps (j + k) s = runSteps k t := by
  induction j generalizing s with
  | zero => cases h; rw [Nat.zero_add]
  | succ j ih =>
    obtain ⟨u, hu⟩ := step_isNext s
    rw [runSteps_succ _ hu] at h
    rw [Nat.add_right_comm, runSteps_succ _ hu]
    exact ih h

/-- A smaller size is allowed where a larger one is. -/
theorem allows_mono {b : Bound} {m n : Nat} (h : allows b n = true) (hmn : m ≤ n) : allows b m = true := by
  cases b with
  | unbounded => rfl
  | atMost limit =>
    simp only [allows, decide_eq_true_eq] at *
    omega

@[simp] theorem allows_unbounded (n : Nat) : allows .unbounded n = true := rfl

@[simp] theorem allows_atMost (limit n : Nat) : allows (.atMost limit) n = decide (n ≤ limit) := rfl

/-- The head of CMD, as `AtHead` and as a pattern. -/
theorem cmd_of_head {s : State} {w : Word} (h : s.cmd.head? = some w) : s.cmd = w :: s.cmd.tail := by
  cases hc : s.cmd with
  | nil => simp [hc] at h
  | cons a as => simp_all

end Sys2Proof.Machine
end

