-- ==== Sys2Proof/Tests/Slice0.lean ====
section
/-!
SUPPORT. The model's own tests: words decoded from the spec's encodings, the ill-formed commands, the vectors of
95_test_vectors.md for each operation, one-step tests of the commands, and for every obligation with hypotheses a witness that
meets them. Expected values are the spec's; the source of each is in its comment.
-/

namespace Sys2Proof.Tests

open Sys2Proof.Machine

/-- A test on the next state of an outcome. -/
def nextIs (o : Host.Outcome State Fault Refusal) (p : State → Bool) : Bool :=
  match o with
  | .next t => p t
  | .fault _ => false
  | .refused _ => false

/-- A block with these channel contents and no depth limits, as after reset otherwise. -/
def block (cmd : List Word) (din : List Byte) : State := { State.reset with cmd := cmd, din := din }

/-- A block whose sizes are limited. -/
def limited (cap cmdDepth dinDepth doutDepth : Nat) : Params :=
  ⟨.atMost cap, .atMost cmdDepth, .atMost dinDepth, .atMost doutDepth⟩

/-! ## WellFormed: the ill-formed terms -/

theorem test_write_count_too_large : ¬ WellFormed (.write 16777216) := by decide
theorem test_getHash_count_too_large : ¬ WellFormed (.getHash 16777216) := by decide
theorem test_write_count_largest : WellFormed (.write 16777215) := by decide

/-! ## Decoding (V-EN1; the words are R70's fields written out: N in bits 31:8, OP in bits 7:0) -/

theorem test_decode_write_3 : decode 0b00000000000000000000001100000001#32 = .cmd (.write 3) := by decide
theorem test_decode_write_max : decode 0b11111111111111111111111100000001#32 = .cmd (.write 16777215) := by decide
theorem test_decode_finalize : decode 0b00000000000000000000000000000010#32 = .cmd .finalize := by decide
theorem test_decode_finalize_reserved : decode 0x00000102 = .err .reservedNonzero := by decide
theorem test_decode_reset : decode 0b00000000000000000000000000000011#32 = .cmd .reset := by decide
theorem test_decode_reset_reserved : decode 0x80000003 = .err .reservedNonzero := by decide
theorem test_decode_getHash_42 : decode 0b00000000000000000010101000000100#32 = .cmd (.getHash 42) := by decide
theorem test_decode_zero_word : decode 0x00000000 = .err .illegalOpcode := by decide
theorem test_decode_opcode_before_count : decode 0x01000081 = .err .illegalOpcode := by decide
theorem test_encode_write_3 : encode (.write 3) = 0x00000301 := by decide
theorem test_table_word : decodeTableWord 32 0x00000304 = some (.getHash 3) := by decide

/-! ## The Permutation Core -/

/-- The state whose lane (x,y) is `v` and every other lane 0. -/
def onlyLane (x y : Nat) (v : Lane) : KState := KState.zero.setLane x y v

-- V-RT1
theorem test_rotl_zero : rotl 0x0123456789ABCDEF 0 = 0x0123456789ABCDEF := by decide
theorem test_rotl_63 : rotl 0x0123456789ABCDEF 63 = 0x8091A2B3C4D5E6F7 := by decide
theorem test_rotl_wraps : rotl 0x8000000000000001 1 = 0x0000000000000003 := by decide

-- V-TH2: the source lane's column is unchanged, column 3 gets C[2], column 1 gets ROTL(C[2], 1).
theorem test_theta_top_bit :
    (theta (onlyLane 2 3 0x8000000000000000)).lane 1 4 = 0x1 ∧
    (theta (onlyLane 2 3 0x8000000000000000)).lane 3 0 = 0x8000000000000000 ∧
    (theta (onlyLane 2 3 0x8000000000000000)).lane 2 3 = 0x8000000000000000 ∧
    (theta (onlyLane 2 3 0x8000000000000000)).lane 2 0 = 0 := by decide +kernel

-- V-RH1
theorem test_rho_lanes :
    (rho (.build fun _ _ => 1)).lane 2 4 = 0x2000000000000000 ∧
    (rho (.build fun _ _ => 1)).lane 0 1 = 0x0000001000000000 := by decide +kernel

-- V-RP1: output lane 1 is source lane 6, output lane 24 is source lane 21.
theorem test_pi_lanes :
    (piStep (.build fun x y => BitVec.ofNat 64 (x + 5 * y))).lane 1 0 = 6 ∧
    (piStep (.build fun x y => BitVec.ofNat 64 (x + 5 * y))).lane 4 4 = 21 := by decide +kernel

-- V-RP2
theorem test_rhoPi_uses_source_rotation :
    rhoPi (onlyLane 0 1 1) = onlyLane 1 3 0x0000001000000000 ∧
    rhoPi (onlyLane 4 4 0x8000000000000000) = onlyLane 4 0 0x0000000000002000 := by decide +kernel

-- V-CH1: row [1, 0, 1, 0, 0] becomes [0, 0, 1, 1, 0].
theorem test_chi_row :
    (List.range 5).map (fun x => (chi ((onlyLane 0 2 1).setLane 2 2 1)).lane x 2) = [0, 0, 1, 1, 0] := by
  decide +kernel

-- V-IO1
theorem test_iota_last_round : iota (onlyLane 0 0 0x1234) 23 = onlyLane 0 0 0x800000008000923C := by decide +kernel

-- V-RD2
theorem test_two_rounds :
    (keccakRound (keccakRound .zero 0) 1).lane 0 0 = 0x8083 ∧
    (keccakRound (keccakRound .zero 0) 1).lane 2 4 = 0x0000010000000004 := by decide +kernel

-- V-KF1
theorem test_keccakF_zero :
    (keccakF .zero).lane 0 0 = 0xF1258F7940E1DDE7 ∧ (keccakF .zero).lane 4 4 = 0xEAF1FF7B5CECA249 := by
  decide +kernel

-- V-LF1, round 13
theorem test_lfsr_round_13 : lfsrBefore 13 = 0xCD ∧ lfsrRound 0xCD = (0x800000000000008B, 0x63) := by decide +kernel

/-! ## The sponge -/

-- V-AB1 (second and third rows, from the all-zero state)
theorem test_absorb_byte :
    absorbByte ⟨.zero, 9⟩ 0xAB = ⟨onlyLane 1 0 0xAB00, 10⟩ ∧
    absorbByte ⟨.zero, 127⟩ 0x5A = ⟨onlyLane 0 3 0x5A00000000000000, 128⟩ := by decide +kernel

-- V-PD1, V-PD3, V-PD6
theorem test_padding_offsets :
    padXors ⟨.zero, 0⟩ = (onlyLane 0 0 1).setLane 1 3 0x8000000000000000 ∧
    padXors ⟨.zero, 135⟩ = onlyLane 1 3 0x8100000000000000 ∧
    padXors ⟨.zero, 128⟩ = onlyLane 1 3 0x8000000000000001 := by decide +kernel

-- V-SQ1 (second row, its first eight bytes and byte 24)
theorem test_squeeze_little_endian :
    (squeeze ((onlyLane 0 0 0x0123456789ABCDEF).setLane 3 0 0xFF)).take 8 =
      [0xef, 0xcd, 0xab, 0x89, 0x67, 0x45, 0x23, 0x01] ∧
    (squeeze ((onlyLane 0 0 0x0123456789ABCDEF).setLane 3 0 0xFF))[24]? = some 0xff := by decide +kernel

-- V-DG1
theorem test_digest_empty : keccak256 [] =
    [0xc5, 0xd2, 0x46, 0x01, 0x86, 0xf7, 0x23, 0x3c, 0x92, 0x7e, 0x7d, 0xb2, 0xdc, 0xc7, 0x03, 0xc0,
     0xe5, 0x00, 0xb6, 0x53, 0xca, 0x82, 0x27, 0x3b, 0x7b, 0xfa, 0xd8, 0x04, 0x5d, 0x85, 0xa4, 0x70] := by
  decide +kernel

-- V-DG2
theorem test_digest_abc : keccak256 [0x61, 0x62, 0x63] =
    [0x4e, 0x03, 0x65, 0x7a, 0xea, 0x45, 0xa9, 0x4f, 0xc7, 0xd4, 0x7b, 0xa8, 0x26, 0xc8, 0xd6, 0x67,
     0xc0, 0xd1, 0xe6, 0xe3, 0x3a, 0x64, 0xa0, 0x36, 0xec, 0x44, 0xf5, 0x8f, 0xa1, 0x2d, 0x6c, 0x45] := by
  decide +kernel

-- V-SRC2: the block boundary (the last four bytes of the digests of 135 and 136 zero bytes)
theorem test_digest_135 : (keccak256 (zeros 135)).drop 28 = [0xdf, 0x9a, 0xbc, 0x3e] := by decide +kernel
theorem test_digest_136 : (keccak256 (zeros 136)).drop 28 = [0x1c, 0xdb, 0x25, 0xf9] := by decide +kernel

/-! ## The commands, one step each -/

-- V-HS1: a zero-length WRITE sets MODE; STATUS = 0x00000001.
theorem test_write_zero_sets_mode :
    nextIs (step (block [0x00000001] [])) (fun t => statusWord t = 0x00000001 && t.cmd = []) = true := by decide
-- V-EX3: BUF_CAP = 2, WRITE "abc".
theorem test_write_overflow :
    nextIs (step { block [0x00000301] [0x61, 0x62, 0x63] with params := limited 2 9 9 32 })
      (fun t => statusWord t = 0x00000032 && t.din = [0x61, 0x62, 0x63]) = true := by decide
-- V-HS2: FINALIZE on an empty BUF pushes the empty-message digest and leaves MODE.
theorem test_finalize_empty :
    nextIs (step (block [0x00000002] []))
      (fun t => t.dout.take 2 = [0xc5, 0xd2] && t.dout.length = 32 && t.mode = .empty) = true := by decide +kernel
-- V-HS8: the second FINALIZE waits at the head of CMD.
theorem test_finalize_waits :
    nextIs (step { block [0x00000002] [] with params := limited 9 9 9 32, dout := zeros 32 })
      (fun t => t.cmd = [0x00000002] && statusWord t = 0) = true := by decide +kernel
-- V-HS3: RESET clears BUF and MODE.
theorem test_reset_clears :
    nextIs (step { block [0x00000003] [0x07] with buf := [0x61], mode := .accumulating, dout := [0x01] })
      (fun t => t.buf = [] && t.mode = .empty && t.din = [0x07] && t.dout = [0x01]) = true := by decide
-- V-EX4: a reserved-nonzero word faults although DOUT is full.
theorem test_reserved_faults_before_wait :
    nextIs (step { block [0x00000102] [] with params := limited 9 9 9 32, dout := zeros 32 })
      (fun t => statusWord t = 0x00000022 && t.cmd = []) = true := by decide +kernel
-- V-HS4, the accept of GETHASH "abc": BUF and MODE stay, BUSY = 1.
theorem test_getHash_accept :
    nextIs (step { block [0x00000304] [] with buf := [0x61, 0x62], mode := .accumulating })
      (fun t => t.phase = .gdata 3 [] && t.buf = [0x61, 0x62] && statusWord t = 0x00000005) = true := by decide
-- R168's example: the last byte pushes KECCAK256("abc").
theorem test_getHash_last_byte :
    nextIs (step { block [] [0x63] with phase := .gdata 1 [0x61, 0x62] })
      (fun t => t.phase = .idle && t.dout.take 3 = [0x4e, 0x03, 0x65] && t.din = []) = true := by decide +kernel
-- V-EX5, its last line: RESET never runs in the fault state.
theorem test_reset_in_fault_state :
    nextIs (step { block [0x00000003] [] with fault := true, fcode := 1, buf := [0x61], mode := .accumulating })
      (fun t => statusWord t = 0x00000013 && t.cmd = [0x00000003]) = true := by decide
-- V-EX1, through the table's word.
theorem test_fetched_illegal_word :
    nextIs (step (State.reset.withFetchWord 32 0)) (fun t => statusWord t = 0x00000012) = true := by decide

/-! ## Witnesses: states and operands that meet an obligation's hypotheses -/

theorem witness_encodedCommandDecodes :
    WellFormed (.write 0) ∧ WellFormed (.write 16777215) ∧ WellFormed .finalize ∧ WellFormed .reset ∧
      WellFormed (.getHash 0) ∧ WellFormed (.getHash 16777215) := by decide
theorem witness_decodedWordEncodes :
    decode 0xFFFFFF01 = .cmd (.write 16777215) ∧ decode 0x00000004 = .cmd (.getHash 0) := by decide
theorem witness_decodeFollowsOpcodeMap :
    opField 0xFFFFFF01 = 0x01 ∧ opField 0x00000002 = 0x02 ∧ nField 0x00000002 = 0 ∧ opField 0x00000102 = 0x02 ∧
      nField 0x00000102 ≠ 0 ∧ opField 0x80000003 = 0x03 ∧ opField 0x00002A04 = 0x04 ∧ opField 0x00000005 = 0x05 := by
  decide
theorem witness_fetchedWordRuns : WellFormed (.write 16777215) ∧ WellFormed .reset := by decide
theorem witness_programLines : dataFits (.text ['a', 'b', 'c']) = true ∧ dataFits (.zeroBytes 0) = true := by decide

/-- A Host whose next move is a push to a CMD that is full. -/
def blockedHost : State :=
  { block [0x00000003] [] with params := limited 4 1 4 32, plan := [.host 0 (.pushCmd 0x00000002)] }

theorem witness_stepRunsTheDecodedCommand :
    (AtHead 0x00000003 (block [0x00000003] []) ∧ (block [0x00000003] []).plan = []) ∧
    (AtHead 0x00000003 { block [0x00000003] [] with plan := [.engine] }) ∧
    (AtHead 0x00000003 blockedHost ∧ hostAct 0 (.pushCmd 0x00000002) (setPlan [] blockedHost) = none) ∧
    decode 0x00000003 = .cmd .reset := by decide
theorem witness_stepMakesTheHostMove :
    { block [] [] with plan := [.engine] }.plan = .engine :: [] ∧ (block [] []).plan = [] ∧
      hostAct 0 (.pushCmd 0x00000002) (setPlan [] blockedHost) = none ∧
      hostAct 7 .readStatus (block [] []) = some { block [] [] with statusReads := [(7, 0)] } := by decide
theorem witness_hardwareReset :
    ∃ s : State, s.plan = [.hardwareReset] ∧ s.phase = .wdata 1 ∧ s.buf ≠ [] :=
  ⟨{ block [] [] with plan := [.hardwareReset], phase := .wdata 1, buf := [0x61], mode := .accumulating }, by decide⟩
theorem witness_writeIsAccepted :
    ∃ s : State, s.params.bufCap = .atMost 3 ∧ allows s.params.bufCap (s.buf.length + 2) = true :=
  ⟨{ block [] [] with params := limited 3 1 1 32, buf := [0x61] }, by decide⟩
theorem witness_overflowingWrite :
    (∃ s : State, s.params.bufCap = .atMost 3 ∧ 3 < s.buf.length + 3) ∧ (block [] []).params.bufCap = .unbounded :=
  ⟨⟨{ block [] [] with params := limited 3 1 1 32, buf := [0x61] }, by decide⟩, by decide⟩
theorem witness_digestRoom :
    ∃ s : State, s.params.doutDepth = .atMost 32 ∧ allows s.params.doutDepth (s.dout.length + 32) = true :=
  ⟨{ block [] [] with params := limited 3 1 1 32 }, by decide⟩

/-- A block with one byte too many in a DOUT of depth 32 for another digest. -/
def fullDout (w : Word) : State := { block [w] [] with params := limited 4 4 4 32, dout := [0xAA] }

theorem witness_digestCommandsWait :
    AtHead 0x00000002 (fullDout 0x00000002) ∧ (fullDout 0x00000002).plan = [] ∧ decode 0x00000002 = .cmd .finalize ∧
      AtHead 0x00000304 (fullDout 0x00000304) ∧ decode 0x00000304 = .cmd (.getHash 3) ∧
      allows (fullDout 0x00000002).params.doutDepth ((fullDout 0x00000002).dout.length + 32) = false ∧
      allows (fullDout 0x00000002).params.doutDepth (((fullDout 0x00000002).dout.drop 1).length + 32) = true := by
  decide
theorem witness_illegalOpcode :
    AtHead 0x00000005 { block [0x00000005] [] with plan := [.engine] } ∧ opField 0x00000005 ≠ 0x01 ∧
      opField 0x00000005 ≠ 0x02 ∧ opField 0x00000005 ≠ 0x03 ∧ opField 0x00000005 ≠ 0x04 ∧ opField 0x00000000 = 0x00 := by
  decide
theorem witness_reservedField :
    AtHead 0x00000102 { block [0x00000102] [] with plan := [.engine] } ∧ opField 0x00000102 = 0x02 ∧
      nField 0x00000102 ≠ 0 ∧
      AtHead 0x80000003 (block [0x80000003] []) ∧ opField 0x80000003 = 0x03 ∧ nField 0x80000003 ≠ 0 := by decide
theorem witness_writeDataStep (r : Nat) (plan : List Move) :
    ∃ s : State, s.fault = false ∧ s.plan = plan ∧ s.phase = .wdata r ∧ s.din = [0x63] :=
  ⟨{ block [] [0x63] with phase := .wdata r, mode := .accumulating, plan := plan }, rfl, rfl, rfl, rfl⟩
theorem witness_getHashDataStep (r : Nat) (plan : List Move) :
    ∃ s : State, s.fault = false ∧ s.plan = plan ∧ s.phase = .gdata r [0x61] ∧ s.din = [0x62] :=
  ⟨{ block [] [0x62] with phase := .gdata r [0x61], plan := plan }, rfl, rfl, rfl, rfl⟩
theorem witness_missingData :
    ∃ s : State, s.fault = false ∧ s.plan = [] ∧ s.phase ≠ .idle ∧ s.din = [] :=
  ⟨{ block [] [] with phase := .wdata 1, mode := .accumulating }, by decide⟩
theorem witness_faultEntry :
    (∃ s t : State, s.fault = false ∧ step s = .next t ∧ t.fault = true ∧ t.fcode = 1) ∧
    (∃ s t : State, s.fault = false ∧ step s = .next t ∧ t.fault = true ∧ t.fcode = 2) ∧
    (∃ s t : State, s.fault = false ∧ step s = .next t ∧ t.fault = true ∧ t.fcode = 3) :=
  ⟨⟨block [0] [], _, rfl, rfl, rfl, rfl⟩, ⟨block [0x80000003] [], _, rfl, rfl, rfl, rfl⟩,
    ⟨{ block [0x00000101] [] with params := limited 0 1 1 32, plan := [.engine] }, _, rfl, rfl, rfl, rfl⟩⟩
theorem witness_faultState :
    ∃ s : State, s.fault = true ∧ Move.hardwareReset ∉ s.plan ∧ s.plan ≠ [] :=
  ⟨{ block [3] [] with fault := true, fcode := 1, plan := [.engine, .host 0 .popDout] }, by decide⟩
theorem witness_leavesFault : ∃ s t : State, s.fault = true ∧ step s = .next t ∧ t.fault = false :=
  ⟨{ block [3] [] with fault := true, fcode := 1, plan := [.hardwareReset] }, _, rfl, rfl, rfl⟩
theorem witness_holds :
    holdOf (block [] []) = some .cmdEmpty ∧ holdOf { block [] [] with phase := .wdata 1 } = some .dinEmpty ∧
      holdOf (fullDout 0x00000002) = some .doutSpace ∧ holdOf { block [] [] with fault := true } = some .faulted ∧
      holdOf (block [0x00000003] []) = none := by decide
theorem witness_holdIsLifted :
    ∃ s t : State, holdOf s = some .doutSpace ∧ hostAct 0 .popDout s = some t ∧ holdOf t ≠ some .doutSpace :=
  ⟨fullDout 0x00000002, { fullDout 0x00000002 with dout := [], received := [(0, 0xAA)] }, by decide⟩
theorem witness_pushLiftsCmdEmpty :
    ∃ t : State, holdOf (block [] []) = some .cmdEmpty ∧ hostAct 0 (.pushCmd 3) (block [] []) = some t :=
  ⟨block [3] [], by decide⟩
theorem witness_pushLiftsDinEmpty :
    ∃ s t : State, holdOf s = some .dinEmpty ∧ hostAct 0 (.pushDin 3) s = some t :=
  ⟨{ block [] [] with phase := .gdata 1 [] }, { block [] [3] with phase := .gdata 1 [] }, by decide⟩
-- R238: the data of the command in progress comes behind a second command, with CMD full.
theorem witness_commandsAheadOfData :
    ∃ s : State, s.fault = false ∧ s.phase ≠ .idle ∧ s.din = [] ∧
      s.plan = [.host 0 (.pushCmd 2), .host 0 (.pushDin 0x61)] ∧ allows s.params.cmdDepth (s.cmd.length + 1) = false :=
  ⟨{ blockedHost with phase := .wdata 1, plan := [.host 0 (.pushCmd 2), .host 0 (.pushDin 0x61)] }, by decide⟩
-- R238, the DIN case: the command comes behind its second data byte, with DIN full.
theorem witness_dataAheadOfCommands :
    ∃ s : State, s.fault = false ∧ s.phase = .idle ∧ s.cmd = [] ∧
      s.plan = [.host 0 (.pushDin 0x62), .host 0 (.pushCmd 0x00000201)] ∧
      allows s.params.dinDepth (s.din.length + 1) = false :=
  ⟨{ block [] [0x61] with params := limited 4 4 1 32, plan := [.host 0 (.pushDin 0x62), .host 0 (.pushCmd 0x00000201)] },
    by decide⟩
theorem witness_deadlockMoves :
    ∀ m ∈ [Move.host 0 (.pushDin 0x61), .engine], m = .engine ∨ ∃ a, m = .host 0 a := by simp
theorem witness_launch :
    ParamsInv (limited 1 1 1 32) ∧ ¬ ParamsInv (limited 1 1 1 31) ∧
      allows (limited 1 1 1 32).bufCap ([0x61] : List Byte).length = true ∧ Mode.accumulating ≠ .empty ∧
      allows (limited 0 1 1 32).bufCap ([] : List Byte).length = true := by decide
theorem witness_invariantStep :
    ∃ s t : State, s.Inv ∧ s.phase = .wdata 1 ∧ step s = .next t :=
  ⟨{ block [] [0x63] with params := limited 1 1 1 32, phase := .wdata 1, mode := .accumulating }, _, by decide, rfl, rfl⟩
theorem witness_bufferWritten :
    (∃ s t : State, step s = .next t ∧ t.buf = s.buf ++ [0x63]) ∧
    (∃ s t : State, step s = .next t ∧ s.buf ≠ [] ∧ t.buf = []) :=
  ⟨⟨{ block [] [0x63] with phase := .wdata 1 }, _, rfl, rfl⟩, ⟨{ block [3] [] with buf := [0x61] }, _, rfl, by decide, rfl⟩⟩
theorem witness_modeChanged :
    (∃ s t : State, step s = .next t ∧ t.mode = .accumulating ∧ t.mode ≠ s.mode) ∧
    (∃ s t : State, step s = .next t ∧ t.mode = .empty ∧ t.mode ≠ s.mode) :=
  ⟨⟨block [1] [], _, rfl, rfl, by decide⟩, ⟨{ block [3] [] with mode := .accumulating }, _, rfl, rfl, by decide⟩⟩
theorem witness_modeTable :
    allows (block [] []).params.bufCap ((block [] []).buf.length + 3) = true ∧
    allows (limited 2 1 1 32).bufCap (0 + 3) = false ∧ AtHead 0 (block [0] []) ∧ decode 0 = .err .illegalOpcode := by
  decide
theorem witness_midCommand :
    ∃ s t : State, step s = .next t ∧ s.phase ≠ .idle ∧ (∀ rest, s.plan ≠ .hardwareReset :: rest) ∧
      t.cmd = s.cmd ++ [2] :=
  ⟨{ block [3] [] with phase := .wdata 1, plan := [.host 0 (.pushCmd 2)] }, _, rfl, by decide,
    (fun _ h => by simp at h), rfl⟩
theorem witness_digestPushed :
    ∃ s t : State, engineStep s = .next t ∧ t.dout = s.dout ++ keccak256 s.buf := ⟨block [2] [], _, rfl, rfl⟩
theorem witness_commute :
    ∃ s s' t : State, holdOf s = none ∧ engineStep s = .next t ∧ hostAct 0 (.pushCmd 2) s = some s' :=
  ⟨block [3] [], block [3, 2] [], _, by decide, rfl, by decide⟩
theorem witness_hostActions :
    (∃ s : State, s.dout = [] ∧ allows s.params.cmdDepth (s.cmd.length + 1) = false) ∧
      (∃ s : State, s.dout = [0xAA] ∧ allows s.params.dinDepth (s.din.length + 1) = true) :=
  ⟨⟨blockedHost, by decide⟩, ⟨fullDout 2, by decide⟩⟩
theorem witness_statusFaultFree : State.reset.Inv ∧ State.reset.fault = false := by decide
theorem witness_hostPops :
    ∃ s : State, s.dout = [0x01, 0x02] ++ [0x03] ∧ s.plan = List.replicate 2 (.host 4 .popDout) ++ [.engine] :=
  ⟨{ block [] [] with dout := [1, 2, 3], plan := [.host 4 .popDout, .host 4 .popDout, .engine] }, by decide⟩
theorem witness_instances :
    ∃ sys : System, sys.blocks[1]? = some (block [3] []) ∧ ∃ t, step (block [3] []) = .next t :=
  ⟨⟨[State.reset, block [3] []]⟩, by decide, _, rfl⟩
theorem witness_writeMessage :
    ∃ s : State, s.fault = false ∧ s.phase = .idle ∧ s.plan = [] ∧ s.cmd = encode (.write 2) :: [3] ∧
      s.din = [0x61, 0x62] ++ [0x63] ∧ allows s.params.bufCap (s.buf.length + 2) = true :=
  ⟨{ block [0x00000201, 3] [0x61, 0x62, 0x63] with params := limited 2 4 4 32 }, by decide⟩
theorem witness_getHashMessage :
    ∃ s : State, s.fault = false ∧ s.phase = .idle ∧ s.plan = [] ∧ s.cmd = encode (.getHash 2) :: [3] ∧
      s.din = [0x61, 0x62] ++ [0x63] ∧ allows s.params.doutDepth (s.dout.length + 32) = true :=
  ⟨{ block [0x00000204, 3] [0x61, 0x62, 0x63] with params := limited 2 4 4 32 }, by decide⟩
theorem witness_streaming :
    ∃ s : State, s.fault = false ∧ s.phase = .idle ∧ s.plan = [] ∧
      s.cmd = writeWords [[], [0x61], [0x62, 0x63]] ++ encode .finalize :: [] ∧
      s.din = [[], [0x61], [0x62, 0x63]].flatten ++ [] ∧
      allows s.params.bufCap (s.buf.length + 3) = true ∧ allows s.params.doutDepth (s.dout.length + 32) = true :=
  ⟨{ block [0x00000001, 0x00000101, 0x00000201, 0x00000002] [0x61, 0x62, 0x63] with params := limited 3 4 4 32 },
    by decide⟩
theorem witness_idempotence :
    ∃ s : State, s.fault = false ∧ s.phase = .idle ∧ s.plan = [] ∧
      s.cmd = encode .finalize :: ([some [0x61], none].map fun m => encode (betweenCommand m)) ++ encode .finalize :: [] ∧
      s.din = [some [0x61], none].flatMap betweenData ++ [] ∧
      allows s.params.bufCap s.buf.length = true ∧
      allows s.params.doutDepth (s.dout.length + ([some [0x61], none].flatMap betweenDigest).length + 64) = true :=
  ⟨{ block [0x00000002, 0x00000104, 0x00000001, 0x00000002] [0x61] with params := limited 0 4 4 128 }, by decide +kernel⟩
theorem witness_resetEquivalence :
    ∃ s : State, AtHead (encode .reset) s ∧ s.fcode = 0 ∧ s.plan = .engine :: [.host 0 .readStatus] :=
  ⟨{ block [3] [7] with buf := [1], mode := .accumulating, plan := [.engine, .host 0 .readStatus] }, by decide⟩
theorem witness_getHashEquivalence :
    ∃ (s : State) (p : Params), s.fault = false ∧ s.phase = .idle ∧ s.plan = [] ∧ s.cmd = [encode (.getHash 1)] ∧
      s.din = [0x61] ∧ allows s.params.doutDepth (s.dout.length + 32) = true ∧ allows p.bufCap 1 = true ∧
      allows p.doutDepth 32 = true :=
  ⟨block [0x00000104] [0x61], limited 1 1 1 32, by decide⟩
theorem witness_evenParity : ∀ x < 5, columnParity (.build fun _ y => if y < 2 then 1 else 0) x = 0 := by decide +kernel
theorem witness_chiRows :
    (∀ x < 5, (KState.zero).lane x 0 = 0) ∧
      ∀ x < 5, (KState.build fun _ _ => BitVec.allOnes 64).lane x 4 = BitVec.allOnes 64 := by decide +kernel
theorem witness_spongeOffsets : spongeInit.off < 136 ∧ (Sponge.mk .zero 135).off < 136 ∧ (Sponge.mk .zero 135).off = 135 := by
  decide

end Sys2Proof.Tests
end

section
/-!
PROOFS. The block's state (R27 to R33, R38, R39): its invariant, what changes BUF and MODE, the STATUS word, and the
independence of the blocks of a system.
-/

namespace Sys2Proof.Machine

/-! ## The three agents -/

/-- A step is a turn of the Engine, after whatever moves the plan has used up, a Host's enabled action, or hardware reset. -/
theorem step_agents {s t : State} (h : step s = .next t) :
    (∃ plan, engineStep (setPlan plan s) = .next t) ∨
    (∃ who a plan, hostAct who a (setPlan plan s) = some t) ∨
    (∃ rest, s.plan = .hardwareReset :: rest ∧ t = hardwareReset (setPlan rest s)) := by
  obtain ⟨-, he⟩ | ⟨rest, -, he⟩ | ⟨who, a, rest, -, ha⟩ | ⟨who, a, rest, -, -, he⟩ | hr := step_cases h
  · exact .inl ⟨s.plan, he⟩
  · exact .inl ⟨rest, he⟩
  · exact .inr (.inl ⟨who, a, rest, ha⟩)
  · exact .inl ⟨s.plan, he⟩
  · exact .inr (.inr hr)

/-- A Host's action writes neither BUF nor MODE (R180 to R183). -/
theorem hostAct_buf_mode {who : Nat} {a : HostAction} {s t : State} (h : hostAct who a s = some t) :
    t.buf = s.buf ∧ t.mode = s.mode := by
  obtain ⟨w, -, -, rfl⟩ | ⟨b, -, -, rfl⟩ | ⟨b, rest, -, -, rfl⟩ | ⟨-, rfl⟩ := hostAct_cases h
  all_goals exact ⟨rfl, rfl⟩

@[simp] theorem gdataFinish_buf (r : Nat) (msg : List Byte) (s : State) : (gdataFinish r msg s).buf = s.buf := by
  unfold gdataFinish
  split <;> rfl

@[simp] theorem gdataFinish_mode (r : Nat) (msg : List Byte) (s : State) : (gdataFinish r msg s).mode = s.mode := by
  unfold gdataFinish
  split <;> rfl

theorem atHead_of_cmd {s : State} {w : Word} {ws : List Word} (hf : s.fault = false) (hp : s.phase = .idle)
    (hc : s.cmd = w :: ws) : AtHead w s :=
  ⟨hf, hp, by rw [hc]; rfl⟩

/-- What the accept of a command can do (R161 to R167): start a WRITE, reject one that overflows, push a digest, clear BUF,
start a GETHASH, or hold for room in DOUT. -/
theorem exec_cases {i : Instr} {s t : State} (h : exec i s = .next t) :
    (∃ n, i = .write n ∧ bufferAccepts n s = true ∧
      t = setPhase (writePhase n) (setMode .accumulating (popCmd s))) ∨
    (∃ n, i = .write n ∧ bufferAccepts n s = false ∧ t = rejectCommand .bufOverflow s) ∨
    (∃ m, (i = .finalize ∧ m = s.buf ∨ i = .getHash 0 ∧ m = []) ∧ doutHasRoom s = true ∧
      t = pushDout (keccak256 m) (popCmd s)) ∨
    (i = .reset ∧ t = clearBuf (popCmd s)) ∨
    (∃ n, i = .getHash n ∧ n ≠ 0 ∧ doutHasRoom s = true ∧ t = setPhase (.gdata n []) (popCmd s)) ∨
    ((i = .finalize ∨ ∃ n, i = .getHash n) ∧ doutHasRoom s = false ∧ t = s) := by
  cases i with
  | write n =>
    obtain rfl := Host.Outcome.next.inj ((exec_write n s).symm.trans h)
    cases hfit : bufferAccepts n s
    · exact .inr (.inl ⟨n, rfl, hfit, rfl⟩)
    · exact .inl ⟨n, rfl, hfit, rfl⟩
  | finalize =>
    obtain rfl := Host.Outcome.next.inj ((exec_finalize s).symm.trans h)
    cases doutHasRoom s
    · exact .inr (.inr (.inr (.inr (.inr ⟨.inl rfl, rfl, rfl⟩))))
    · exact .inr (.inr (.inl ⟨s.buf, .inl ⟨rfl, rfl⟩, rfl, rfl⟩))
  | reset =>
    obtain rfl := Host.Outcome.next.inj ((exec_reset s).symm.trans h)
    exact .inr (.inr (.inr (.inl ⟨rfl, rfl⟩)))
  | getHash n =>
    obtain rfl := Host.Outcome.next.inj ((exec_getHash n s).symm.trans h)
    cases doutHasRoom s
    · exact .inr (.inr (.inr (.inr (.inr ⟨.inr ⟨n, rfl⟩, rfl, rfl⟩))))
    · by_cases h0 : n = 0
      · subst h0
        exact .inr (.inr (.inl ⟨[], .inr ⟨rfl, rfl⟩, rfl, rfl⟩))
      · exact .inr (.inr (.inr (.inr (.inl ⟨n, rfl, h0, rfl, by simp [h0]⟩))))

/-! ## What changes BUF and MODE (R27, R28) -/

/-- Of the commands, RESET alone writes BUF at its accept. -/
theorem exec_buf {i : Instr} {s t : State} (h : exec i s = .next t) : t.buf = s.buf ∨ (i = .reset ∧ t.buf = []) := by
  obtain ⟨n, -, -, rfl⟩ | ⟨n, -, -, rfl⟩ | ⟨m, -, -, rfl⟩ | ⟨hi, rfl⟩ | ⟨n, -, -, -, rfl⟩ | ⟨-, -, rfl⟩ := exec_cases h
  case inr.inr.inr.inl => exact .inr ⟨hi, rfl⟩
  all_goals exact .inl rfl

/-- Of the commands, WRITE and RESET alone write MODE (R170). -/
theorem exec_mode {i : Instr} {s t : State} (h : exec i s = .next t) :
    t.mode = s.mode ∨ (∃ n, i = .write n ∧ t.mode = .accumulating) ∨ (i = .reset ∧ t.mode = .empty) := by
  obtain ⟨n, hi, -, rfl⟩ | ⟨n, -, -, rfl⟩ | ⟨m, -, -, rfl⟩ | ⟨hi, rfl⟩ | ⟨n, -, -, -, rfl⟩ | ⟨-, -, rfl⟩ := exec_cases h
  case inl => exact .inr (.inl ⟨n, hi, rfl⟩)
  case inr.inr.inr.inl => exact .inr (.inr ⟨hi, rfl⟩)
  all_goals exact .inl rfl

/-- A turn of the Engine writes BUF in a WRITE's data step and in RESET (R27). -/
theorem engineStep_buf {s t : State} (h : engineStep s = .next t) :
    t.buf = s.buf ∨ (∃ r b ds, s.phase = .wdata r ∧ s.din = b :: ds ∧ t.buf = s.buf ++ [b]) ∨
    (t.buf = [] ∧ ∃ w, AtHead w s ∧ decode w = .cmd .reset) := by
  obtain rfl | ⟨w, ws, k, -, -, -, -, rfl⟩ | ⟨w, ws, i, hf, hp, hc, hd, he⟩ | ⟨r, b, ds, -, hp, hd, rfl⟩ |
    ⟨r, msg, b, ds, -, -, -, rfl⟩ := engineStep_cases h
  · exact .inl rfl
  · exact .inl rfl
  · obtain hb | ⟨rfl, hb⟩ := exec_buf he
    · exact .inl hb
    · exact .inr (.inr ⟨hb, w, atHead_of_cmd hf hp hc, hd⟩)
  · exact .inr (.inl ⟨r, b, ds, hp, hd, rfl⟩)
  · exact .inl (by simp)

/-- A turn of the Engine writes MODE in the accept of WRITE and of RESET (R28). -/
theorem engineStep_mode {s t : State} (h : engineStep s = .next t) :
    t.mode = s.mode ∨ (∃ w n, AtHead w s ∧ decode w = .cmd (.write n) ∧ t.mode = .accumulating) ∨
    (∃ w, AtHead w s ∧ decode w = .cmd .reset ∧ t.mode = .empty) := by
  obtain rfl | ⟨w, ws, k, -, -, -, -, rfl⟩ | ⟨w, ws, i, hf, hp, hc, hd, he⟩ | ⟨r, b, ds, -, -, -, rfl⟩ |
    ⟨r, msg, b, ds, -, -, -, rfl⟩ := engineStep_cases h
  · exact .inl rfl
  · exact .inl rfl
  · obtain hm | ⟨n, rfl, hm⟩ | ⟨rfl, hm⟩ := exec_mode he
    · exact .inl hm
    · exact .inr (.inl ⟨w, n, atHead_of_cmd hf hp hc, hd, hm⟩)
    · exact .inr (.inr ⟨w, atHead_of_cmd hf hp hc, hd, hm⟩)
  · exact .inl rfl
  · exact .inl (by simp)

/-! ## The parts of the invariant -/

theorem phaseInv_idle {s : State} (hp : s.phase = .idle) : phaseInv s = true := by
  simp [phaseInv, hp]

theorem phaseInv_wdata {s : State} {r : Nat} (hp : s.phase = .wdata r) :
    phaseInv s = true ↔ 1 ≤ r ∧ r ≤ Config.maxCount ∧ s.mode = .accumulating := by
  simp [phaseInv, hp]

theorem phaseInv_gdata {s : State} {r : Nat} {msg : List Byte} (hp : s.phase = .gdata r msg) :
    phaseInv s = true ↔ (1 ≤ r ∧ r + msg.length ≤ Config.maxCount) ∧ doutHasRoom s = true := by
  simp [phaseInv, hp]

/-- Fewer bytes in DOUT leave no less room for the digest of a GETHASH in progress (R169). -/
theorem phaseInv_of_dout_le {s t : State} (hparams : t.params = s.params) (hmode : t.mode = s.mode)
    (hphase : t.phase = s.phase) (hdout : t.dout.length ≤ s.dout.length) (h : phaseInv s = true) :
    phaseInv t = true := by
  cases hp : s.phase with
  | idle => exact phaseInv_idle (hphase.trans hp)
  | wdata r =>
    rw [phaseInv_wdata hp] at h
    rwa [phaseInv_wdata (hphase.trans hp), hmode]
  | gdata r msg =>
    obtain ⟨hr, hroom⟩ := (phaseInv_gdata hp).1 h
    refine (phaseInv_gdata (hphase.trans hp)).2 ⟨hr, ?_⟩
    unfold doutHasRoom at hroom ⊢
    rw [hparams]
    exact allows_mono hroom (by omega)

/-- While FAULT = 0 only FCODE = 0 is asked (R30). -/
theorem faultInv_of_no_fault {s : State} (hf : s.fault = false) (hc : s.fcode = 0) : FaultInv s :=
  ⟨fun _ => hc, fun h => by simp [hf] at h⟩

theorem faultInv_raiseFault {k : FaultCause} {s : State} (hp : s.phase = .idle) : FaultInv (raiseFault k s) :=
  ⟨by simp, fun _ => ⟨hp, by cases k <;> simp [fcodeOf]⟩⟩

/-- The invariant speaks of the block alone, not of the moves to come. -/
theorem inv_setPlan {plan : List Move} {s : State} : (setPlan plan s).Inv ↔ s.Inv := Iff.rfl

/-! ## Launch states meet the invariant, and the operations keep it -/

theorem popCmd_inv {s : State} (h : s.Inv) : (popCmd s).Inv := by
  obtain ⟨hpar, ⟨hcmd, hdin, hdout⟩, hrest⟩ := h
  exact ⟨hpar, ⟨allows_mono hcmd (by simp), hdin, hdout⟩, hrest⟩

theorem setDin_tail_inv {s : State} {b : Byte} {ds : List Byte} (hd : s.din = b :: ds) (h : s.Inv) :
    (setDin ds s).Inv := by
  obtain ⟨hpar, ⟨hcmd, hdin, hdout⟩, hrest⟩ := h
  exact ⟨hpar, ⟨hcmd, allows_mono hdin (by simp [hd]), hdout⟩, hrest⟩

theorem setPhase_idle_inv {s : State} (h : s.Inv) : (setPhase .idle s).Inv := by
  obtain ⟨hpar, hchan, hbuf, hmode, ⟨hok, hflt⟩, -⟩ := h
  exact ⟨hpar, hchan, allows_mono hbuf (by simp [writeBytesLeft]), hmode, ⟨hok, fun hf => ⟨rfl, (hflt hf).2⟩⟩, rfl⟩

/-- A digest is pushed between commands, where DOUT has the room (R161, R169). -/
theorem pushDigest_inv {s : State} (m : List Byte) (hp : s.phase = .idle) (hroom : doutHasRoom s = true) (h : s.Inv) :
    (pushDout (keccak256 m) s).Inv := by
  obtain ⟨hpar, ⟨hcmd, hdin, -⟩, hbuf, hmode, hflt, -⟩ := h
  refine ⟨hpar, ⟨hcmd, hdin, ?_⟩, hbuf, hmode, hflt, phaseInv_idle hp⟩
  simpa [doutHasRoom, Config.digestLength] using hroom

theorem rejectCommand_inv {k : FaultCause} {s : State} (hp : s.phase = .idle) (h : s.Inv) :
    (rejectCommand k s).Inv := by
  obtain ⟨hpar, hchan, hbuf, hmode, -, hph⟩ := popCmd_inv h
  exact ⟨hpar, hchan, hbuf, hmode, faultInv_raiseFault hp, hph⟩

theorem clearBuf_inv {s : State} (hp : s.phase = .idle) (h : s.Inv) : (clearBuf s).Inv := by
  obtain ⟨hpar, hchan, hbuf, -, hflt, -⟩ := h
  exact ⟨hpar, hchan, allows_mono hbuf (by simp), fun _ => rfl, hflt, phaseInv_idle hp⟩

/-- The accept of a WRITE whose bytes fit (R162). -/
theorem startWrite_inv {n : Nat} {s : State} (hn : n ≤ Config.maxCount) (hf : s.fault = false)
    (hfit : bufferAccepts n s = true) (h : s.Inv) :
    (setPhase (writePhase n) (setMode .accumulating s)).Inv := by
  obtain ⟨hpar, hchan, -, -, ⟨hok, -⟩, -⟩ := h
  have hleft : writeBytesLeft (writePhase n) = n := by unfold writePhase; split <;> simp_all [writeBytesLeft]
  refine ⟨hpar, hchan, ?_, nofun, faultInv_of_no_fault hf (hok hf), ?_⟩
  · simpa [BufInv, hleft, bufferAccepts] using hfit
  · by_cases h0 : n = 0
    · exact phaseInv_idle (by simp [writePhase, h0])
    · exact (phaseInv_wdata (r := n) (by simp [writePhase, h0])).2 ⟨by omega, hn, rfl⟩

/-- The accept of a GETHASH of at least one byte, with room for its digest (R167, R169). -/
theorem startGetHash_inv {n : Nat} {s : State} (h1 : 1 ≤ n) (hn : n ≤ Config.maxCount) (hf : s.fault = false)
    (hroom : doutHasRoom s = true) (h : s.Inv) : (setPhase (.gdata n []) s).Inv := by
  obtain ⟨hpar, hchan, hbuf, hmode, ⟨hok, -⟩, -⟩ := h
  exact ⟨hpar, hchan, allows_mono hbuf (by simp [writeBytesLeft]), hmode, faultInv_of_no_fault hf (hok hf),
    (phaseInv_gdata rfl).2 ⟨⟨h1, by simpa using hn⟩, hroom⟩⟩

/-- A WRITE's data step (R163): the byte appended was counted among those still to come. -/
theorem writeByte_inv {r : Nat} {b : Byte} {s : State} (hf : s.fault = false) (hp : s.phase = .wdata r) (h : s.Inv) :
    (setPhase (afterWriteByte r) (appendBuf b s)).Inv := by
  obtain ⟨hpar, hchan, hbuf, -, ⟨hok, -⟩, hph⟩ := h
  obtain ⟨h1, hmax, hacc⟩ := (phaseInv_wdata hp).1 hph
  have hleft : writeBytesLeft (afterWriteByte r) = r - 1 := by
    unfold afterWriteByte; split <;> simp_all [writeBytesLeft]
  refine ⟨hpar, hchan, ?_, ?_, faultInv_of_no_fault hf (hok hf), ?_⟩
  · refine allows_mono hbuf ?_
    rw [setPhase_phase, hleft, hp]
    simp only [setPhase_buf, appendBuf_buf, writeBytesLeft, List.length_append, List.length_singleton]
    omega
  · simp [hacc]
  · by_cases hr : r = 1
    · exact phaseInv_idle (by simp [afterWriteByte, hr])
    · exact (phaseInv_wdata (r := r - 1) (by simp [afterWriteByte, hr])).2 ⟨by omega, by omega, hacc⟩

/-- A GETHASH's data step (R168): the room for the digest was kept since its accept (R169). -/
theorem gdataFinish_inv {r : Nat} {msg : List Byte} {b : Byte} {s : State} (hf : s.fault = false)
    (hp : s.phase = .gdata r msg) (h : s.Inv) : (gdataFinish r (msg ++ [b]) s).Inv := by
  obtain ⟨hpar, hchan, hbuf, hmode, ⟨hok, -⟩, hph⟩ := id h
  obtain ⟨⟨h1, hmax⟩, hroom⟩ := (phaseInv_gdata hp).1 hph
  unfold gdataFinish
  split
  · exact pushDigest_inv (s := setPhase .idle s) _ rfl hroom (setPhase_idle_inv h)
  · refine ⟨hpar, hchan, allows_mono hbuf (by simp [writeBytesLeft]), hmode, faultInv_of_no_fault hf (hok hf),
      (phaseInv_gdata rfl).2 ⟨⟨by omega, ?_⟩, hroom⟩⟩
    simp only [List.length_append, List.length_singleton]
    omega

theorem hardwareReset_inv {s : State} (h : s.Inv) : (hardwareReset s).Inv := by
  obtain ⟨hpar, ⟨hcmd, hdin, hdout⟩, hbuf, -⟩ := h
  exact ⟨hpar, ⟨allows_mono hcmd (Nat.zero_le _), allows_mono hdin (Nat.zero_le _), allows_mono hdout (Nat.zero_le _)⟩,
    allows_mono hbuf (Nat.zero_le _), fun _ => rfl, faultInv_of_no_fault rfl rfl, rfl⟩

/-- A state of the launch form meets the invariant: its channels are empty, so its sizes and BUF alone matter (R245). -/
theorem launch_inv {p : Params} {buf : List Byte} {mode : Mode} (plan : List Move) (hp : ParamsInv p)
    (hbuf : allows p.bufCap buf.length = true) (hmode : mode = .empty → buf = []) : (launch p buf mode plan).Inv := by
  obtain ⟨hcmd, hdin, hdout⟩ := id hp
  exact ⟨hp, ⟨allows_mono hcmd (Nat.zero_le _), allows_mono hdin (Nat.zero_le _), allows_mono hdout (Nat.zero_le _)⟩,
    hbuf, hmode, faultInv_of_no_fault rfl rfl, rfl⟩

/-! ## The agents keep the invariant -/

theorem exec_inv {i : Instr} {s t : State} (hi : WellFormed i) (hf : s.fault = false) (hp : s.phase = .idle)
    (h : s.Inv) (he : exec i s = .next t) : t.Inv := by
  have hpop := popCmd_inv h
  obtain ⟨n, rfl, hfit, rfl⟩ | ⟨n, -, -, rfl⟩ | ⟨m, -, hroom, rfl⟩ | ⟨-, rfl⟩ | ⟨n, rfl, h0, hroom, rfl⟩ |
    ⟨-, -, rfl⟩ := exec_cases he
  · exact startWrite_inv (of_decide_eq_true hi) hf hfit hpop
  · exact rejectCommand_inv hp h
  · exact pushDigest_inv m hp hroom hpop
  · exact clearBuf_inv hp hpop
  · exact startGetHash_inv (Nat.pos_of_ne_zero h0) (of_decide_eq_true hi) hf hroom hpop
  · exact h

theorem engineStep_inv {s t : State} (h : s.Inv) (he : engineStep s = .next t) : t.Inv := by
  obtain rfl | ⟨w, ws, k, -, hp, -, -, rfl⟩ | ⟨w, ws, i, hf, hp, -, hd, he⟩ | ⟨r, b, ds, hf, hp, hd, rfl⟩ |
    ⟨r, msg, b, ds, hf, hp, hd, rfl⟩ := engineStep_cases he
  · exact h
  · exact rejectCommand_inv hp h
  · exact exec_inv (wellFormed_of_decode hd) hf hp h he
  · exact writeByte_inv hf hp (setDin_tail_inv hd h)
  · exact gdataFinish_inv hf hp (setDin_tail_inv hd h)

theorem hostAct_inv {who : Nat} {a : HostAction} {s t : State} (h : s.Inv) (ha : hostAct who a s = some t) :
    t.Inv := by
  obtain ⟨hpar, ⟨hcmd, hdin, hdout⟩, hbuf, hmode, hflt, hph⟩ := id h
  obtain ⟨w, -, hroom, rfl⟩ | ⟨b, -, hroom, rfl⟩ | ⟨b, rest, -, hd, rfl⟩ | ⟨-, rfl⟩ := hostAct_cases ha
  · exact ⟨hpar, ⟨by simpa using hroom, hdin, hdout⟩, hbuf, hmode, hflt, hph⟩
  · exact ⟨hpar, ⟨hcmd, by simpa using hroom, hdout⟩, hbuf, hmode, hflt, hph⟩
  · have hlen : rest.length ≤ s.dout.length := by simp [hd]
    exact ⟨hpar, ⟨hcmd, hdin, allows_mono hdout hlen⟩, hbuf, hmode, hflt, phaseInv_of_dout_le (s := s) rfl rfl rfl hlen hph⟩
  · exact h

/-! ## STATUS -/

/-- STATUS bit by bit (R33). -/
theorem statusWord_getLsbD (s : State) (k : Nat) :
    (statusWord s).getLsbD k =
      if k = 0 then s.mode.bit.getLsbD 0
      else if k = 1 then s.fault
      else if k = 2 then busy s
      else if k = 3 then false
      else s.fcode.getLsbD (k - 4) := by
  unfold statusWord
  simp only [BitVec.getLsbD_append]
  obtain _ | _ | _ | _ | k := k
  case succ.succ.succ.succ => simpa using BitVec.lt_of_getLsbD
  all_goals simp

theorem mode_bit_iff (m : Mode) : m.bit.getLsbD 0 = true ↔ m = .accumulating := by
  cases m <;> decide

theorem statusWord_fcode (s : State) : (statusWord s).extractLsb' 4 4 = s.fcode := by
  apply BitVec.eq_of_getLsbD_eq
  intro k hk
  have hfields : 4 + k ≠ 0 ∧ 4 + k ≠ 1 ∧ 4 + k ≠ 2 ∧ 4 + k ≠ 3 := by omega
  simp [statusWord_getLsbD, hk, hfields]

theorem statusWord_high (s : State) : (statusWord s).extractLsb' 8 24 = 0 := by
  apply BitVec.eq_of_getLsbD_eq
  intro k hk
  have hfields : 8 + k ≠ 0 ∧ 8 + k ≠ 1 ∧ 8 + k ≠ 2 ∧ 8 + k ≠ 3 := by omega
  have hwidth : s.fcode.getLsbD (8 + k - 4) = false := BitVec.getLsbD_of_ge _ _ (by omega)
  simp [statusWord_getLsbD, hfields, hwidth]

/-! ## The obligations -/

/-- Settles O29: the Engine, a Host and hardware reset each keep the invariant. -/
theorem stepKeepsInvariant : Obligations.StepKeepsInvariant := by
  intro s t h hs
  obtain ⟨plan, he⟩ | ⟨who, a, plan, ha⟩ | ⟨rest, -, rfl⟩ := step_agents hs
  · exact engineStep_inv (inv_setPlan.2 h) he
  · exact hostAct_inv (inv_setPlan.2 h) ha
  · exact hardwareReset_inv (inv_setPlan.2 h)

/-- Settles O30: the Engine's writes of BUF are `engineStep_buf`, and no Host writes it. -/
theorem bufferIsWrittenOnlyAsNamed : Obligations.BufferIsWrittenOnlyAsNamed := by
  intro s t hs
  obtain ⟨plan, he⟩ | ⟨who, a, plan, ha⟩ | ⟨rest, hp, rfl⟩ := step_agents hs
  · obtain hb | hw | ⟨hb, hr⟩ := engineStep_buf he
    · exact .inl hb
    · exact .inr (.inl hw)
    · exact .inr (.inr ⟨hb, .inl hr⟩)
  · exact .inl (hostAct_buf_mode ha).1
  · exact .inr (.inr ⟨rfl, .inr ⟨rest, hp⟩⟩)

/-- Settles O31: the Engine's writes of MODE are `engineStep_mode`, and no Host writes it. -/
theorem modeIsChangedOnlyAsNamed : Obligations.ModeIsChangedOnlyAsNamed := by
  intro s t hs hne
  obtain ⟨plan, he⟩ | ⟨who, a, plan, ha⟩ | ⟨rest, hp, rfl⟩ := step_agents hs
  · obtain hm | hw | hr := engineStep_mode he
    · exact absurd hm hne
    · exact .inl hw
    · exact .inr (.inl hr)
  · exact absurd (hostAct_buf_mode ha).2 hne
  · exact .inr (.inr ⟨rest, hp, rfl⟩)

/-- Settles O28: the reset state is itself a launch state, with unbounded sizes and nothing in BUF. -/
theorem resetStateMeetsInvariant : Obligations.ResetStateMeetsInvariant :=
  ⟨launch_inv (p := .allUnbounded) [] ⟨rfl, rfl, rfl⟩ rfl fun _ => rfl,
    fun _ _ _ plan hp hbuf hmode => launch_inv plan hp hbuf hmode⟩

/-- Settles O37, from the bits of STATUS. -/
theorem statusWordFields : Obligations.StatusWordFields := by
  intro who s
  refine ⟨?_, statusWord_getLsbD s 1, ?_, statusWord_getLsbD s 3, statusWord_fcode s, statusWord_high s, ?_, rfl⟩
  · rw [statusWord_getLsbD]
    exact mode_bit_iff s.mode
  · rw [statusWord_getLsbD]
    exact decide_eq_true_iff
  · rintro ⟨-, -, -, -, ⟨hok, -⟩, -⟩ hf
    exact (statusWord_fcode s).trans (hok hf)

/-- Settles O39: the step of block k modifies position k of the system and no other. -/
theorem instancesAreIndependent : Obligations.InstancesAreIndependent := by
  intro sys k
  constructor
  · intro j hj
    simp [stepBlock, hj.symm]
  · intro s t hk hs
    simp [stepBlock, hk, hs, outcomeState]

end Sys2Proof.Machine
end

section
/-!
PROOFS. Absorption and the digest (R51 to R55): StateXorByte writes one byte of the state, so the capacity region is never
written, and SQUEEZE reads the first four lanes.
-/

namespace Sys2Proof.Machine

/-! ## Bytes of the Keccak state -/

/-- A byte placed at byte position k of a lane reads back at k, and every other byte of that lane is 0 (R51, R53). -/
theorem extract_placedByte (b : Byte) (k k' : Nat) (hk' : k' < 8) :
    (b.zeroExtend 64 <<< (8 * k)).extractLsb' (8 * k') 8 = if k' = k then b else 0 := by
  ext i hi
  have hin : 8 * k' + i < 64 := by omega
  by_cases h : k' = k
  · subst h
    simp [hi, hin]
  · have hout : 8 * k' + i < 8 * k ∨ 8 ≤ 8 * k' + i - 8 * k := by omega
    obtain hlow | hhigh := hout
    · simp [h, hlow]
    · simp [h, BitVec.getLsbD_of_ge _ _ hhigh]

/-- Two state bytes lie in the same lane exactly where their offsets agree but for the byte in the lane (R51). -/
theorem sameLane_iff {o o' : Nat} (ho : o < 200) (ho' : o' < 200) :
    (o' / 8 % 5 % 5 = o / 8 % 5 % 5 ∧ o' / 8 / 5 % 5 = o / 8 / 5 % 5) ↔ o' / 8 = o / 8 := by
  omega

/-- StateXorByte XORs its byte into the one at its offset and leaves the other 199 (R53). -/
theorem stateByte_stateXorByte (A : KState) (b : Byte) {o o' : Nat} (ho : o < 200) (ho' : o' < 200) :
    stateByte (stateXorByte A o b) o' = if o' = o then stateByte A o' ^^^ b else stateByte A o' := by
  simp only [stateByte, stateXorByte, lane_setLane, sameLane_iff ho ho']
  by_cases hlane : o' / 8 = o / 8
  · have hbyte : o' % 8 = o % 8 ↔ o' = o := by omega
    rw [if_pos hlane, BitVec.extractLsb'_xor, extract_placedByte b _ _ (Nat.mod_lt _ (by decide)), hlane]
    by_cases h : o' = o <;> simp [hbyte, h]
  · have h : o' ≠ o := fun h => hlane (by rw [h])
    rw [if_neg hlane, if_neg h]

/-- StateXorByte leaves the byte at another offset (R53). -/
theorem stateByte_stateXorByte_of_ne (A : KState) (b : Byte) {o o' : Nat} (ho : o < 200) (ho' : o' < 200) (h : o' ≠ o) :
    stateByte (stateXorByte A o b) o' = stateByte A o' := by
  rw [stateByte_stateXorByte A b ho ho', if_neg h]

/-- The state after ABSORB_BYTE (R131). -/
theorem absorbByte_A (p : Sponge) (b : Byte) :
    (absorbByte p b).A = if p.off = 135 then keccakF (stateXorByte p.A p.off b) else stateXorByte p.A p.off b := by
  have hlast : p.off + 1 = Config.rate ↔ p.off = 135 := Nat.succ_inj
  simp only [absorbByte, hlast]
  split <;> rfl

/-- Padding leaves the capacity region (R54). -/
theorem stateByte_padXors_capacity {p : Sponge} {o : Nat} (hp : p.off < 136) (h1 : 136 ≤ o) (h2 : o < 200) :
    stateByte (padXors p) o = stateByte p.A o := by
  have hoff : p.off < 200 := by omega
  have hne : o ≠ p.off := by omega
  have hne' : o ≠ Config.rate - 1 := Nat.ne_of_gt h1
  unfold padXors
  rw [stateByte_stateXorByte_of_ne _ _ (by decide) h2 hne', stateByte_stateXorByte_of_ne _ _ hoff h2 hne]

/-- State byte k is a byte of lane (k div 8, 0), for the first five lanes (R51). -/
theorem stateByte_firstRow (A : KState) {k : Nat} (hk : k < 40) :
    stateByte A k = (A.lane (k / 8) 0).extractLsb' (8 * (k % 8)) 8 := by
  have hx : k / 8 % 5 = k / 8 := by omega
  have hy : k / 8 / 5 = 0 := by omega
  rw [stateByte, hx, hy]

/-- Digest byte k is state byte k (R55, R135). -/
theorem squeeze_getElem? (A : KState) {k : Nat} (hk : k < 32) : (squeeze A)[k]? = some (stateByte A k) := by
  simp [squeeze, hk]

/-! ## The obligations -/

/-- Settles O54: two offsets in one lane differ in their byte position, and bytes at different positions do not overlap. -/
theorem xorByteTouchesOneByte : Obligations.XorByteTouchesOneByte :=
  fun A b _ ho _ ho' => stateByte_stateXorByte A b ho ho'

/-- Settles O55: blockOffset and 135, the two offsets written, lie below the capacity region. -/
theorem capacityIsUntouched : Obligations.CapacityIsUntouched := by
  intro p b hp
  refine ⟨absorbByte_A p b, fun o h1 h2 => ⟨?_, stateByte_padXors_capacity hp h1 h2⟩⟩
  have hoff : p.off < 200 := by omega
  exact stateByte_stateXorByte_of_ne _ _ hoff h2 (by omega)

/-- Settles O60: for k below 32 byte k lies in lane k div 8 of row 0. -/
theorem digestIsTheFirstLanes : Obligations.DigestIsTheFirstLanes :=
  fun A => ⟨length_squeeze A, fun _ hk => ⟨squeeze_getElem? A hk, stateByte_firstRow A (by omega)⟩⟩

end Sys2Proof.Machine
end

section
/-!
PROOFS. The channels between the Hosts and the Engine (R61, R62, R184): what a step takes from CMD, and why an enabled Host
move and an enabled Engine step commute.
-/

namespace Sys2Proof.Machine

/-! ## Who writes CMD -/

@[simp] theorem gdataFinish_cmd (r : Nat) (msg : List Byte) (s : State) : (gdataFinish r msg s).cmd = s.cmd := by
  unfold gdataFinish
  split <;> rfl

/-- With a command in progress the Engine leaves CMD (R61): both of its ACCEPT branches want PHASE = IDLE. -/
theorem engineStep_cmd_of_busy {s t : State} (h : engineStep s = .next t) (hp : s.phase ≠ .idle) : t.cmd = s.cmd := by
  obtain rfl | ⟨w, ws, k, -, hidle, -⟩ | ⟨w, ws, i, -, hidle, -⟩ | ⟨r, b, ds, -, -, -, rfl⟩ |
    ⟨r, msg, b, ds, -, -, -, rfl⟩ := engineStep_cases h
  · rfl
  · exact absurd hidle hp
  · exact absurd hidle hp
  · rfl
  · simp

/-- A Host's action leaves CMD or adds one word at its end (R180 to R183). -/
theorem hostAct_cmd {who : Nat} {a : HostAction} {s t : State} (h : hostAct who a s = some t) :
    t.cmd = s.cmd ∨ ∃ w, t.cmd = s.cmd ++ [w] := by
  obtain ⟨w, -, -, rfl⟩ | ⟨b, -, -, rfl⟩ | ⟨b, rest, -, -, rfl⟩ | ⟨-, rfl⟩ := hostAct_cases h
  case inl => exact .inr ⟨w, rfl⟩
  all_goals exact .inl rfl

/-! ## What the Engine's step depends on

An enabled step of the Engine reads the registers, the oldest entry of CMD or of DIN, and whether DOUT has room. A Host's push
or pop changes none of these but can only make more room in DOUT, so the same step stays enabled and has the same effect. -/

/-- Where the Engine does not hold it has a word to accept, with room for the digest the word asks for, or a data byte to
take (R160, R171). -/
theorem enabled_cases {s : State} (h : holdOf s = none) :
    s.fault = false ∧
    ((∃ w ws, s.phase = .idle ∧ s.cmd = w :: ws ∧ (givesDigest w = true → doutHasRoom s = true)) ∨
     (∃ r b ds, s.phase = .wdata r ∧ s.din = b :: ds) ∨
     (∃ r msg b ds, s.phase = .gdata r msg ∧ s.din = b :: ds)) := by
  unfold holdOf at h
  split at h
  · cases h
  next hf =>
    refine ⟨by simpa using hf, ?_⟩
    split at h
    next hp =>
      split at h
      · cases h
      · next w ws hc => exact .inl ⟨w, ws, hp, hc, by simpa using h⟩
    next r hp =>
      obtain ⟨b, ds, hd⟩ := List.exists_cons_of_ne_nil (by simpa using h : s.din ≠ [])
      exact .inr (.inl ⟨r, b, ds, hp, hd⟩)
    next r msg hp =>
      obtain ⟨b, ds, hd⟩ := List.exists_cons_of_ne_nil (by simpa using h : s.din ≠ [])
      exact .inr (.inr ⟨r, msg, b, ds, hp, hd⟩)

/-- What one step of the Engine does: how many entries it takes from CMD and DIN, what it adds to DOUT, and the registers
after it. -/
structure Effect where
  /-- Words taken from CMD. -/
  words : Nat
  /-- Bytes taken from DIN. -/
  bytes : Nat
  /-- Bytes added to DOUT. -/
  digest : List Byte
  /-- BUF afterwards. -/
  buf : List Byte
  /-- MODE afterwards. -/
  mode : Mode
  /-- FAULT afterwards. -/
  fault : Bool
  /-- FCODE afterwards. -/
  fcode : BitVec 4
  /-- PHASE afterwards. -/
  phase : Phase

/-- The state after an effect. -/
def Effect.apply (e : Effect) (s : State) : State :=
  { s with
    cmd := s.cmd.drop e.words, din := s.din.drop e.bytes, dout := s.dout ++ e.digest,
    buf := e.buf, mode := e.mode, fault := e.fault, fcode := e.fcode, phase := e.phase }

/-- Entries taken from the channels, the registers as they stand in `s`. -/
def Effect.take (words bytes : Nat) (s : State) : Effect :=
  ⟨words, bytes, [], s.buf, s.mode, s.fault, s.fcode, s.phase⟩

/-- `t` is a state that Host moves can lead to from `s`, as the Engine sees it: the same registers and sizes, CMD and DIN with
the same entries and perhaps more behind them, and no more in DOUT. -/
structure AfterHosts (s t : State) : Prop where
  params : t.params = s.params
  buf : t.buf = s.buf
  mode : t.mode = s.mode
  fault : t.fault = s.fault
  fcode : t.fcode = s.fcode
  phase : t.phase = s.phase
  cmd : s.cmd <+: t.cmd
  din : s.din <+: t.din
  dout : t.dout.length ≤ s.dout.length

theorem AfterHosts.refl (s : State) : AfterHosts s s :=
  ⟨rfl, rfl, rfl, rfl, rfl, rfl, ⟨[], List.append_nil _⟩, ⟨[], List.append_nil _⟩, le_rfl⟩

/-- The Engine's step at `s` has effect `e`, and has it after any such Host moves. -/
def StepsWith (e : Effect) (s : State) : Prop :=
  ∀ t, AfterHosts s t → engineStep t = .next (e.apply t)

section
variable {s t : State} (h : AfterHosts s t)
include h

/-- The oldest word of CMD stays where it is (R32). -/
theorem AfterHosts.cmd_cons {w : Word} {ws : List Word} (hc : s.cmd = w :: ws) : ∃ ws', t.cmd = w :: ws' := by
  obtain ⟨more, hmore⟩ := h.cmd
  exact ⟨ws ++ more, by rw [← hmore, hc, List.cons_append]⟩

/-- The oldest byte of DIN stays where it is (R32). -/
theorem AfterHosts.din_cons {b : Byte} {ds : List Byte} (hd : s.din = b :: ds) : ∃ ds', t.din = b :: ds' := by
  obtain ⟨more, hmore⟩ := h.din
  exact ⟨ds ++ more, by rw [← hmore, hd, List.cons_append]⟩

/-- A digest has room where it had room before (R209). -/
theorem AfterHosts.doutHasRoom (hroom : doutHasRoom s = true) : Machine.doutHasRoom t = true := by
  unfold Machine.doutHasRoom
  rw [h.params]
  exact allows_mono hroom (Nat.add_le_add_right h.dout _)

/-- A WRITE fits where it fitted before (R218). -/
theorem AfterHosts.bufferAccepts (n : Nat) : Machine.bufferAccepts n t = Machine.bufferAccepts n s := by
  simp only [Machine.bufferAccepts, h.params, h.buf]

/-- The registers are the same. -/
theorem AfterHosts.take (words bytes : Nat) : Effect.take words bytes s = Effect.take words bytes t := by
  simp only [Effect.take, h.buf, h.mode, h.fault, h.fcode, h.phase]

end

/-- A word that is rejected is taken from CMD, and the two fault registers are set (R161, R202). -/
theorem reject_stepsWith {s : State} {w : Word} {ws : List Word} {k : FaultCause} (hf : s.fault = false)
    (hp : s.phase = .idle) (hc : s.cmd = w :: ws) (hd : decode w = .err k) :
    StepsWith { Effect.take 1 0 s with fault := true, fcode := fcodeOf k } s := by
  intro t ht
  obtain ⟨ws', hc'⟩ := ht.cmd_cons hc
  rw [engineStep_reject (ht.fault.trans hf) (ht.phase.trans hp) hc' hd, ht.take]
  simp [Effect.apply, Effect.take, rejectCommand, raiseFault, popCmd]

/-- The accept of a command has an effect, which takes its word (R161 to R167), if a command that gives a digest has room
for it (R209). -/
theorem exec_effect {i : Instr} {s : State} (hroom : (i = .finalize ∨ ∃ n, i = .getHash n) → doutHasRoom s = true) :
    ∃ e : Effect, e.words = 1 ∧ e.bytes = 0 ∧ ∀ t, AfterHosts s t → exec i t = .next (e.apply t) := by
  cases i with
  | write n =>
    cases hfit : bufferAccepts n s
    · refine ⟨{ Effect.take 1 0 s with fault := true, fcode := fcodeOf .bufOverflow }, rfl, rfl, fun t ht => ?_⟩
      rw [exec_write, ht.bufferAccepts, hfit, ht.take]
      simp [Effect.apply, Effect.take, rejectCommand, raiseFault, popCmd]
    · refine ⟨{ Effect.take 1 0 s with mode := .accumulating, phase := writePhase n }, rfl, rfl, fun t ht => ?_⟩
      rw [exec_write, ht.bufferAccepts, hfit, ht.take]
      simp [Effect.apply, Effect.take, setPhase, setMode, popCmd]
  | finalize =>
    refine ⟨{ Effect.take 1 0 s with digest := keccak256 s.buf }, rfl, rfl, fun t ht => ?_⟩
    rw [exec_finalize, if_pos (ht.doutHasRoom (hroom (.inl rfl))), ht.take, ht.buf]
    simp [Effect.apply, Effect.take, pushDout, popCmd]
  | reset =>
    refine ⟨{ Effect.take 1 0 s with buf := [], mode := .empty }, rfl, rfl, fun t ht => ?_⟩
    rw [exec_reset, ht.take]
    simp [Effect.apply, Effect.take, clearBuf, popCmd]
  | getHash n =>
    by_cases hn : n = 0
    · refine ⟨{ Effect.take 1 0 s with digest := keccak256 [] }, rfl, rfl, fun t ht => ?_⟩
      rw [exec_getHash, if_pos (ht.doutHasRoom (hroom (.inr ⟨n, rfl⟩))), if_pos hn, ht.take]
      simp [Effect.apply, Effect.take, pushDout, popCmd]
    · refine ⟨{ Effect.take 1 0 s with phase := .gdata n [] }, rfl, rfl, fun t ht => ?_⟩
      rw [exec_getHash, if_pos (ht.doutHasRoom (hroom (.inr ⟨n, rfl⟩))), if_neg hn, ht.take]
      simp [Effect.apply, Effect.take, setPhase, popCmd]

/-- A WRITE's data step moves one byte from DIN to BUF (R163). -/
theorem wdata_stepsWith {s : State} {r : Nat} {b : Byte} {ds : List Byte} (hf : s.fault = false)
    (hp : s.phase = .wdata r) (hd : s.din = b :: ds) :
    StepsWith { Effect.take 0 1 s with buf := s.buf ++ [b], phase := afterWriteByte r } s := by
  intro t ht
  obtain ⟨ds', hd'⟩ := ht.din_cons hd
  rw [engineStep_wdata (ht.fault.trans hf) (ht.phase.trans hp) hd', ht.take, ← ht.buf]
  simp [Effect.apply, Effect.take, setPhase, appendBuf, setDin, hd']

/-- A GETHASH's data step takes one byte from DIN, and the last one adds the digest to DOUT (R168). -/
theorem gdata_stepsWith {s : State} {r : Nat} {msg : List Byte} {b : Byte} {ds : List Byte} (hf : s.fault = false)
    (hp : s.phase = .gdata r msg) (hd : s.din = b :: ds) :
    StepsWith
      (if r = 1 then { Effect.take 0 1 s with digest := keccak256 (msg ++ [b]), phase := .idle }
        else { Effect.take 0 1 s with phase := .gdata (r - 1) (msg ++ [b]) }) s := by
  intro t ht
  obtain ⟨ds', hd'⟩ := ht.din_cons hd
  rw [engineStep_gdata (ht.fault.trans hf) (ht.phase.trans hp) hd', ht.take]
  by_cases hr : r = 1
  · simp [gdataFinish, hr, Effect.apply, Effect.take, setPhase, pushDout, setDin, hd']
  · simp [gdataFinish, hr, Effect.apply, Effect.take, setPhase, setDin, hd']

/-- Every enabled step of the Engine has an effect, and it takes only what the channels already hold. -/
theorem enabled_stepsWith {s : State} (h : holdOf s = none) :
    ∃ e : Effect, e.words ≤ s.cmd.length ∧ e.bytes ≤ s.din.length ∧ StepsWith e s := by
  obtain ⟨hf, ⟨w, ws, hp, hc, hroom⟩ | ⟨r, b, ds, hp, hd⟩ | ⟨r, msg, b, ds, hp, hd⟩⟩ := enabled_cases h
  · cases hw : decode w with
    | err k => exact ⟨_, by simp [Effect.take, hc], Nat.zero_le _, reject_stepsWith hf hp hc hw⟩
    | cmd i =>
      have hroom' : (i = .finalize ∨ ∃ n, i = .getHash n) → doutHasRoom s = true := by
        rintro (rfl | ⟨n, rfl⟩) <;> exact hroom (by simp [givesDigest, hw])
      obtain ⟨e, hwords, hbytes, he⟩ := exec_effect hroom'
      refine ⟨e, by simp [hwords, hc], by simp [hbytes], fun t ht => ?_⟩
      obtain ⟨ws', hc'⟩ := ht.cmd_cons hc
      rw [engineStep_accept (ht.fault.trans hf) (ht.phase.trans hp) hc' hw, he t ht]
  · exact ⟨_, Nat.zero_le _, by simp [Effect.take, hd], wdata_stepsWith hf hp hd⟩
  · refine ⟨_, ?_, ?_, gdata_stepsWith hf hp hd⟩
    · split <;> exact Nat.zero_le _
    · split <;> simp [Effect.take, hd]

/-! ## A Host's push or pop -/

/-- A push or pop adds to CMD and DIN and leaves no more in DOUT than there was (R180 to R182). -/
theorem hostAct_afterHosts {who : Nat} {a : HostAction} {s t : State} (ha : a ≠ .readStatus)
    (h : hostAct who a s = some t) : AfterHosts s t := by
  obtain ⟨w, -, -, rfl⟩ | ⟨b, -, -, rfl⟩ | ⟨b, rest, -, hd, rfl⟩ | ⟨rfl, -⟩ := hostAct_cases h
  · exact ⟨rfl, rfl, rfl, rfl, rfl, rfl, ⟨[w], rfl⟩, ⟨[], List.append_nil _⟩, le_rfl⟩
  · exact ⟨rfl, rfl, rfl, rfl, rfl, rfl, ⟨[], List.append_nil _⟩, ⟨[b], rfl⟩, le_rfl⟩
  · exact ⟨rfl, rfl, rfl, rfl, rfl, rfl, ⟨[], List.append_nil _⟩, ⟨[], List.append_nil _⟩, by simp [hd]⟩
  · exact absurd rfl ha

/-- An enabled push or pop is still enabled after an effect that takes only what the channels hold, and the two commute: a
push is at the other end of its channel than the take, and a pop at the other end of DOUT than the digest. -/
theorem hostAct_effect {who : Nat} {a : HostAction} {s t : State} {e : Effect} (ha : a ≠ .readStatus)
    (hwords : e.words ≤ s.cmd.length) (hbytes : e.bytes ≤ s.din.length) (h : hostAct who a s = some t) :
    hostAct who a (e.apply s) = some (e.apply t) := by
  obtain ⟨w, rfl, hroom, rfl⟩ | ⟨b, rfl, hroom, rfl⟩ | ⟨b, rest, rfl, hd, rfl⟩ | ⟨rfl, -⟩ := hostAct_cases h
  · have hroom' : allows s.params.cmdDepth (s.cmd.length - e.words + 1) = true := allows_mono hroom (by omega)
    simp [hostAct, hostPushCmd, Effect.apply, hroom', List.drop_append_of_le_length hwords]
  · have hroom' : allows s.params.dinDepth (s.din.length - e.bytes + 1) = true := allows_mono hroom (by omega)
    simp [hostAct, hostPushDin, Effect.apply, hroom', List.drop_append_of_le_length hbytes]
  · simp [hostAct, hostPopDout, Effect.apply, hd]
  · exact absurd rfl ha

/-! ## The obligations -/

/-- Settles O33: mid-command the Engine leaves CMD, and a Host only adds to it. -/
theorem noCommandIsAcceptedMidCommand : Obligations.NoCommandIsAcceptedMidCommand := by
  intro s t hs hp hnoreset
  obtain ⟨plan, he⟩ | ⟨who, a, plan, ha⟩ | ⟨rest, hr, -⟩ := step_agents hs
  · exact .inl (engineStep_cmd_of_busy (s := setPlan plan s) he hp)
  · exact hostAct_cmd (s := setPlan plan s) ha
  · exact absurd hr (hnoreset rest)

/-- Settles O35: the Engine's step has one effect before and after the Host's move, and the move commutes with that effect. -/
theorem hostMovesCommuteWithEngine : Obligations.HostMovesCommuteWithEngine := by
  intro who a s s' t ha hnohold he hh
  obtain ⟨e, hwords, hbytes, hstep⟩ := enabled_stepsWith hnohold
  obtain rfl : e.apply s = t := Host.Outcome.next.inj ((hstep s (.refl s)).symm.trans he)
  exact ⟨e.apply s', hstep s' (hostAct_afterHosts ha hh), hostAct_effect ha hwords hbytes hh⟩

end Sys2Proof.Machine
end

section
/-!
PROOFS. Command words (R70 to R77, R80): DECODE by opcode, the commands it reads from the two fields of a word, and the words
of a program's lines.
-/

namespace Sys2Proof

/-! ## DECODE by opcode (R77) -/

section
variable {w : Word}

theorem decode_opWrite (h : opField w = opWrite) : decode w = .cmd (.write (nField w).toNat) := by
  simp [decode, h]

theorem decode_opFinalize (h : opField w = opFinalize) : decode w = requireZero (nField w).toNat .finalize := by
  simp [decode, h, opFinalize, opWrite]

theorem decode_opReset (h : opField w = opReset) : decode w = requireZero (nField w).toNat .reset := by
  simp [decode, h, opReset, opFinalize, opWrite]

theorem decode_opGetHash (h : opField w = opGetHash) : decode w = .cmd (.getHash (nField w).toNat) := by
  simp [decode, h, opGetHash, opReset, opFinalize, opWrite]

theorem decode_illegal (h1 : opField w ≠ opWrite) (h2 : opField w ≠ opFinalize) (h3 : opField w ≠ opReset)
    (h4 : opField w ≠ opGetHash) : decode w = .err .illegalOpcode := by
  simp [decode, h1, h2, h3, h4]

end

/-- The reserved field is 0 as a number exactly where it is 0 as bits (R75). -/
theorem requireZero_toNat (n : BitVec 24) (i : Instr) :
    requireZero n.toNat i = if n = 0 then .cmd i else .err .reservedNonzero := by
  have hzero : n.toNat = 0 ↔ n = 0 := BitVec.toNat_inj (y := 0)
  simp only [requireZero, hzero]

theorem eq_of_requireZero {n : Nat} {i j : Instr} (h : requireZero n i = .cmd j) : n = 0 ∧ i = j := by
  unfold requireZero at h
  split at h
  · next h0 => exact ⟨h0, Decoded.cmd.inj h⟩
  · cases h

/-- FINALIZE and RESET with a reserved field that is not 0 (R75). -/
theorem decode_reserved {w : Word} (hop : opField w = opFinalize ∨ opField w = opReset) (hn : nField w ≠ 0) :
    decode w = .err .reservedNonzero := by
  have herr (i : Instr) : requireZero (nField w).toNat i = .err .reservedNonzero :=
    (requireZero_toNat _ _).trans (if_neg hn)
  obtain hop | hop := hop
  · exact (decode_opFinalize hop).trans (herr _)
  · exact (decode_opReset hop).trans (herr _)

/-! ## DECODE and the fields of a command (R71 to R73) -/

/-- A word that decodes to a command has the command's opcode in OP and its count in N. -/
theorem fields_of_decode {w : Word} {i : Instr} (h : decode w = .cmd i) :
    opField w = i.opcode ∧ (nField w).toNat = i.count := by
  by_cases h1 : opField w = opWrite
  · obtain rfl := Decoded.cmd.inj ((decode_opWrite h1).symm.trans h)
    exact ⟨h1, rfl⟩
  by_cases h2 : opField w = opFinalize
  · obtain ⟨h0, rfl⟩ := eq_of_requireZero ((decode_opFinalize h2).symm.trans h)
    exact ⟨h2, h0⟩
  by_cases h3 : opField w = opReset
  · obtain ⟨h0, rfl⟩ := eq_of_requireZero ((decode_opReset h3).symm.trans h)
    exact ⟨h3, h0⟩
  by_cases h4 : opField w = opGetHash
  · obtain rfl := Decoded.cmd.inj ((decode_opGetHash h4).symm.trans h)
    exact ⟨h4, rfl⟩
  · cases (decode_illegal h1 h2 h3 h4).symm.trans h

/-- A word with a command's opcode in OP and its count in N decodes to the command. -/
theorem decode_of_fields {w : Word} {i : Instr} (hop : opField w = i.opcode) (hn : (nField w).toNat = i.count) :
    decode w = .cmd i := by
  cases i with
  | write n => rw [decode_opWrite hop, hn, Instr.count]
  | finalize => rw [decode_opFinalize hop, hn]; rfl
  | reset => rw [decode_opReset hop, hn]; rfl
  | getHash n => rw [decode_opGetHash hop, hn, Instr.count]

/-- The two fields of every command's encoding. -/
theorem encodedFields : ∀ i : Instr, Laws.EncodedFields.Statement i
  | .write n => Laws.EncodedFields.write n
  | .finalize => Laws.EncodedFields.finalize
  | .reset => Laws.EncodedFields.reset
  | .getHash n => Laws.EncodedFields.getHash n

theorem wellFormed_write {n : Nat} (hn : n ≤ Config.maxCount) : WellFormed (.write n) := decide_eq_true hn

theorem wellFormed_getHash {n : Nat} (hn : n ≤ Config.maxCount) : WellFormed (.getHash n) := decide_eq_true hn

theorem decode_encode {i : Instr} (hi : WellFormed i) : decode (encode i) = .cmd i := by
  obtain ⟨hop, hn⟩ := encodedFields i
  exact decode_of_fields hop (hn hi)

theorem encode_of_decode {w : Word} {i : Instr} (h : decode w = .cmd i) : encode i = w := by
  obtain ⟨hop, hn⟩ := fields_of_decode h
  rw [encode, ← hop, ← hn, commandWord_fields]

/-! ## The words of program lines (R80) -/

/-- "(n << 8) OR op" is the word of the two fields; a count that is too long loses the same high bits in both. -/
theorem shiftedCount_or_opcode (op : Byte) (n : Nat) :
    BitVec.ofNat 32 n <<< 8 ||| op.setWidth 32 = commandWord op n := by
  apply BitVec.eq_of_getLsbD_eq
  intro i hi
  simp only [commandWord_getLsbD, BitVec.getLsbD_or, BitVec.getLsbD_shiftLeft, BitVec.getLsbD_setWidth,
    BitVec.getLsbD_ofNat]
  by_cases h : i < 8
  · simp [h, hi]
  · have hN : i - 8 < 24 ∧ i - 8 < 32 := by omega
    have hop : op.getLsbD i = false := BitVec.getLsbD_of_ge _ _ (by omega)
    simp [h, hi, hN, hop]

/-! ## The obligations -/

/-- Settles O1: DECODE reads the command off the two fields, and the encoding carries them. -/
theorem encodedCommandDecodes : Obligations.EncodedCommandDecodes :=
  fun _ hi => decode_encode hi

/-- Settles O2: a word is its two fields, and DECODE's command carries both. -/
theorem decodedWordEncodes : Obligations.DecodedWordEncodes :=
  fun _ _ h => ⟨encode_of_decode h, wellFormed_of_decode h⟩

/-- Settles O6: for every length, whether or not it fits. -/
theorem programLinesEncodeCommands : Obligations.ProgramLinesEncodeCommands :=
  ⟨fun d _ => ⟨congrArg some (shiftedCount_or_opcode opWrite (Machine.dataBytes d).length),
    congrArg some (shiftedCount_or_opcode opGetHash (Machine.dataBytes d).length)⟩, rfl, rfl⟩

/-- Settles O3, opcode by opcode. -/
theorem decodeFollowsOpcodeMap : Obligations.DecodeFollowsOpcodeMap := by
  intro w
  refine ⟨decode_opWrite, fun h => ?_, fun h => ?_, decode_opGetHash, decode_illegal⟩
  · exact (decode_opFinalize h).trans (requireZero_toNat _ _)
  · exact (decode_opReset h).trans (requireZero_toNat _ _)

/-- Settles O4, by evaluating DECODE on each word. -/
theorem writtenOutWordsDecode : Obligations.WrittenOutWordsDecode := by
  unfold Obligations.WrittenOutWordsDecode
  decide

end Sys2Proof
end

section
/-!
PROOFS. Whole commands and their data (R78 to R81, R162 to R168, R182): the digest bytes a Host pops, the data steps of WRITE
and GETHASH as runs, the accepts that fault, and the chunks of WRITE_LONG.
-/

namespace Sys2Proof.Machine

/-! ## A Host that pops DOUT (R182) -/

theorem step_popDout {s : State} {who : Nat} {b : Byte} {rest : List Byte} {moves : List Move}
    (hp : s.plan = .host who .popDout :: moves) (hd : s.dout = b :: rest) :
    step s = .next { s with dout := rest, plan := moves, received := s.received ++ [(who, b)] } :=
  step_host hp (by simp [hostAct, hostPopDout, setPlan, hd])

/-- Pops by one Host take the oldest bytes of DOUT, in order. -/
theorem runSteps_popDout (who : Nat) (behind : List Byte) (after : List Move) (d : List Byte) :
    ∀ s : State, s.dout = d ++ behind → s.plan = List.replicate d.length (.host who .popDout) ++ after →
      runSteps d.length s = .next { s with
        dout := behind, plan := after, received := s.received ++ d.map fun b => (who, b) } := by
  induction d with
  | nil =>
    intro s hd hp
    obtain rfl : s.dout = behind := hd
    obtain rfl : s.plan = after := hp
    simp
  | cons b d ih =>
    intro s hd hp
    rw [List.length_cons, runSteps_succ _ (step_popDout hp hd), ih _ rfl rfl]
    simp

/-! ## A whole WRITE (R162, R163) -/

/-- The accept of an encoded command with no move planned is the command's meaning (R161). -/
theorem step_accept {s : State} {i : Instr} {ws : List Word} (hi : WellFormed i) (hf : s.fault = false)
    (hp : s.phase = .idle) (hplan : s.plan = []) (hc : s.cmd = encode i :: ws) : step s = exec i s :=
  (step_noPlan hplan).trans (engineStep_accept hf hp hc (decode_encode hi))

/-- After a data step of a WRITE the phase is the one that the accept of the bytes left would give (R162, R163). -/
theorem afterWriteByte_succ (n : Nat) : afterWriteByte (n + 1) = writePhase n := by
  simp [afterWriteByte, writePhase]

/-- The data steps of a WRITE, from the phase its accept leaves, move its bytes from DIN to BUF in order. -/
theorem runSteps_writeData (behind a : List Byte) :
    ∀ s : State, s.fault = false → s.plan = [] → s.phase = writePhase a.length → s.din = a ++ behind →
      runSteps a.length s = .next { s with din := behind, buf := s.buf ++ a, phase := .idle } := by
  induction a with
  | nil =>
    intro s _ _ hp hd
    obtain rfl : s.din = behind := hd
    have hidle : s.phase = .idle := hp
    rw [List.length_nil, runSteps_zero, List.append_nil, ← hidle]
  | cons b a ih =>
    intro s hf hplan hp hd
    have hstep : step s = .next (setPhase (writePhase a.length) (appendBuf b (setDin (a ++ behind) s))) := by
      rw [← afterWriteByte_succ]
      exact (step_noPlan hplan).trans (engineStep_wdata hf hp hd)
    rw [List.length_cons, runSteps_succ _ hstep]
    refine Eq.trans (ih _ hf hplan rfl rfl) ?_
    simp [setPhase, appendBuf, setDin]

/-! ## A whole GETHASH (R167, R168) -/

/-- Before its last byte a data step of a GETHASH only counts (R168). -/
theorem gdataFinish_more (n : Nat) (msg : List Byte) (s : State) :
    gdataFinish (n + 2) msg s = setPhase (.gdata (n + 1) msg) s := by
  simp [gdataFinish]

/-- The data steps of a GETHASH with at least one byte to come push the digest of `msg`, which it has received, and of all
its bytes. -/
theorem runSteps_getHashData (behind a : List Byte) :
    ∀ (b : Byte) (msg : List Byte) (s : State), s.fault = false → s.plan = [] →
      s.phase = .gdata (a.length + 1) msg → s.din = b :: (a ++ behind) →
      runSteps (a.length + 1) s = .next { s with
        din := behind, dout := s.dout ++ keccak256 (msg ++ b :: a), phase := .idle } := by
  induction a with
  | nil =>
    intro b msg s hf hplan hp hd
    exact runSteps_succ 0 ((step_noPlan hplan).trans (engineStep_gdata hf hp hd))
  | cons c a ih =>
    intro b msg s hf hplan hp hd
    have hstep : step s =
        .next (setPhase (.gdata (a.length + 1) (msg ++ [b])) (setDin (c :: (a ++ behind)) s)) := by
      rw [step_noPlan hplan, engineStep_gdata hf hp hd, List.length_cons, gdataFinish_more]
      rfl
    rw [List.length_cons, runSteps_succ _ hstep]
    refine Eq.trans (ih c (msg ++ [b]) _ hf hplan rfl rfl) ?_
    simp [setPhase, setDin]

/-! ## Accepts that fault (R74, R75) -/

theorem engineStep_reject_atHead {s : State} {w : Word} {k : FaultCause} (h : AtHead w s) (hd : decode w = .err k) :
    engineStep s = .next { s with cmd := s.cmd.tail, fault := true, fcode := fcodeOf k } := by
  obtain ⟨hf, hp, hc⟩ := h
  exact engineStep_reject hf hp (cmd_of_head hc) hd

/-! ## The chunks of WRITE_LONG (R81) -/

/-- The first `k` chunks of `size` bytes, joined, are the first `size * k` bytes. -/
theorem flatMap_chunks (size : Nat) (bs : List Byte) (k : Nat) :
    (List.range k).flatMap (fun j => (bs.drop (size * j)).take size) = bs.take (size * k) := by
  induction k with
  | zero => simp
  | succ k ih => rw [List.range_succ, List.flatMap_append, ih, List.flatMap_singleton, Nat.mul_succ, List.take_add]

/-- The lines of any chunk size carry the data in order. -/
theorem flatMap_writeChunks (size : Nat) (bs : List Byte) : (writeChunks size bs).flatMap lineDin = bs := by
  rw [writeChunks, List.flatMap_append, List.flatMap_map, List.flatMap_singleton]
  exact (congrArg (· ++ _) (flatMap_chunks size bs _)).trans (List.take_append_drop _ bs)

/-- A chunk before the remainder is full. -/
theorem length_chunk {size j : Nat} {bs : List Byte} (hj : j < bs.length / size) :
    ((bs.drop (size * j)).take size).length = size := by
  have hfit : size * (j + 1) ≤ bs.length := (Nat.mul_le_mul_left _ hj).trans (Nat.mul_div_le _ _)
  rw [Nat.mul_succ] at hfit
  rw [List.length_take, List.length_drop]
  omega

/-- The remainder is shorter than a chunk. -/
theorem length_remainder (size : Nat) (bs : List Byte) :
    (bs.drop (size * (bs.length / size))).length = bs.length % size := by
  have := Nat.div_add_mod bs.length size
  rw [List.length_drop]
  omega

/-- Every line is a WRITE of at most `size` bytes. -/
theorem mem_writeChunks {size : Nat} {bs : List Byte} (hsize : 0 < size) {l : Line} (hl : l ∈ writeChunks size bs) :
    ∃ c : List Byte, l = .write (.bytes c) ∧ c.length ≤ size := by
  obtain hl | hl := List.mem_append.1 hl
  · obtain ⟨j, hj, rfl⟩ := List.mem_map.1 hl
    exact ⟨_, rfl, List.length_take_le _ _⟩
  · obtain rfl := List.mem_singleton.1 hl
    exact ⟨_, rfl, (length_remainder size bs).le.trans (Nat.mod_lt _ hsize).le⟩

/-- Every line but the last carries `size` bytes. -/
theorem length_of_mem_dropLast_writeChunks {size : Nat} {bs : List Byte} {l : Line}
    (hl : l ∈ (writeChunks size bs).dropLast) : (lineDin l).length = size := by
  rw [writeChunks, List.dropLast_concat] at hl
  obtain ⟨j, hj, rfl⟩ := List.mem_map.1 hl
  exact length_chunk (List.mem_range.1 hj)

/-- A WRITE line of bytes is allowed where their count fits (R80). -/
theorem lineWellFormed_bytes {c : List Byte} (h : c.length ≤ Config.maxCount) :
    lineWellFormed (.write (.bytes c)) = true := by
  simp [lineWellFormed, dataFits, dataBytes, countFits, h]

/-! ## The obligations -/

/-- Settles O38, by induction on the bytes popped. -/
theorem digestBytesReachTheHostInOrder : Obligations.DigestBytesReachTheHostInOrder :=
  fun who d behind s after hd hp => runSteps_popDout who behind after d s hd hp

/-- Settles O40: the accept, then the data steps by induction on the message. -/
theorem writeAppendsItsMessage : Obligations.WriteAppendsItsMessage := by
  intro a behind ws s hf hp hplan hlen hc hd hroom
  have haccept : step s = .next (setPhase (writePhase a.length) (setMode .accumulating (popCmd s))) := by
    have hfit : bufferAccepts a.length s = true := hroom
    rw [step_accept (wellFormed_write hlen) hf hp hplan hc, exec_write, if_pos hfit]
  rw [runSteps_succ _ haccept]
  refine Eq.trans (runSteps_writeData behind a _ hf hplan rfl hd) ?_
  simp [setPhase, setMode, popCmd, hc, hp]

/-- Settles O41: the accept pushes the digest of the empty message at once, and otherwise the data steps push it at the last
byte. -/
theorem getHashDigestsItsMessage : Obligations.GetHashDigestsItsMessage := by
  intro a behind ws s hf hp hplan hlen hc hd hroom
  have hdigest : doutHasRoom s = true := hroom
  have haccept := step_accept (wellFormed_getHash hlen) hf hp hplan hc
  rw [exec_getHash, if_pos hdigest] at haccept
  cases a with
  | nil =>
    obtain rfl : s.din = behind := hd
    rw [List.length_nil, runSteps_succ _ haccept]
    simp [pushDout, popCmd, hc]
  | cons b a =>
    rw [List.length_cons, if_neg (Nat.succ_ne_zero _)] at haccept
    rw [List.length_cons, runSteps_succ _ haccept]
    refine Eq.trans (runSteps_getHashData behind a b [] _ hf hplan rfl hd) ?_
    simp [setPhase, popCmd, hc, hp]

/-- Settles O46: the chunks and the remainder are consecutive pieces of the data. -/
theorem writeLongCarriesItsData : Obligations.WriteLongCarriesItsData := by
  intro d
  refine ⟨flatMap_writeChunks _ _, fun l hl => ?_, fun l hl => length_of_mem_dropLast_writeChunks hl⟩
  obtain ⟨c, rfl, hc⟩ := mem_writeChunks (Nat.succ_pos _) hl
  exact ⟨lineWellFormed_bytes hc, c, rfl⟩

/-- Settles O17: such a word decodes to ILLEGAL_OPCODE. -/
theorem illegalOpcodeFaults : Obligations.IllegalOpcodeFaults :=
  fun _ _ h h1 h2 h3 h4 => engineStep_reject_atHead h (decode_illegal h1 h2 h3 h4)

/-- Settles O18: such a word decodes to RESERVED_NONZERO, and SQUEEZE reads 32 bytes. -/
theorem reservedFieldFaults : Obligations.ReservedFieldFaults :=
  ⟨fun _ _ h hop hn => engineStep_reject_atHead h (decode_reserved hop hn), length_keccak256⟩

end Sys2Proof.Machine
end

section
/-!
PROOFS. The Permutation Core (R100 to R113): the bits of a rotation, each step mapping as a rule for the lanes of its output,
and the two constant tables.
-/

namespace Sys2Proof.Machine

/-! ## Lanes and rotation -/

/-- A lane depends on its coordinates modulo 5 (R13). -/
theorem lane_congr (A : KState) {x x' y y' : Nat} (hx : x % 5 = x' % 5) (hy : y % 5 = y' % 5) :
    A.lane x y = A.lane x' y' := by
  simp only [KState.lane, hx, hy]

@[simp] theorem lane_mod_left (A : KState) (x y : Nat) : A.lane (x % 5) y = A.lane x y :=
  lane_congr A (Nat.mod_mod x 5) rfl

@[simp] theorem lane_mod_right (A : KState) (x y : Nat) : A.lane x (y % 5) = A.lane x y :=
  lane_congr A rfl (Nat.mod_mod y 5)

/-- The bits of a rotation (R100): those from n up come from the left shift, those below n wrap around from the right shift. -/
theorem rotl_getLsbD (v : Lane) {n k : Nat} (hn : n < 64) (hk : k < 64) :
    (rotl v n).getLsbD k = v.getLsbD ((k + 64 - n) % 64) := by
  by_cases h0 : n = 0
  · subst h0
    rw [rotl, if_pos rfl, Nat.sub_zero, Nat.add_mod_right, Nat.mod_eq_of_lt hk]
  rw [rotl, if_neg h0, BitVec.getLsbD_or, BitVec.getLsbD_shiftLeft, BitVec.getLsbD_ushiftRight]
  by_cases hwrap : k < n
  · have hsource : (k + 64 - n) % 64 = 64 - n + k := by omega
    simp [hwrap, hsource]
  · have hsource : (k + 64 - n) % 64 = k - n := by omega
    have hshifted : v.getLsbD (64 - n + k) = false := BitVec.getLsbD_of_ge v _ (by omega)
    simp [hwrap, hk, hsource, hshifted]

/-! ## The step mappings, lane by lane -/

@[simp] theorem columnParity_mod (A : KState) (x : Nat) : columnParity A (x % 5) = columnParity A x := by
  simp only [columnParity, lane_mod_left]

/-- THETA's lanes (R101), for all coordinates. -/
theorem theta_lane (A : KState) (x y : Nat) :
    (theta A).lane x y = A.lane x y ^^^ (columnParity A (x + 4) ^^^ rotl (columnParity A (x + 1)) 1) := by
  simp only [theta, thetaOffset, lane_build, lane_mod, Nat.mod_add_mod]
  simp only [columnParity_mod]

/-- Where every column parity is 0, THETA is the identity (R101). -/
theorem theta_of_evenParity {A : KState} (h : ∀ x < 5, columnParity A x = 0) : theta A = A := by
  have hparity (x : Nat) : columnParity A x = 0 := by
    rw [← columnParity_mod]
    exact h _ (Nat.mod_lt x (by decide))
  have hrot : rotl 0#64 1 = 0#64 := by decide
  refine kstate_ext fun x _ y _ => ?_
  simp [theta_lane, hparity, hrot]

/-- RHO's lanes (R102). -/
theorem rho_lane (A : KState) {x y : Nat} (hx : x < 5) (hy : y < 5) :
    (rho A).lane x y = rotl (A.lane x y) (rot x y) := by
  rw [rho, lane_build, Nat.mod_eq_of_lt hx, Nat.mod_eq_of_lt hy]

/-- PI by destination (R103): the lane at (x, y) comes from (x + 3y, x). -/
theorem piStep_lane (A : KState) (x y : Nat) : (piStep A).lane x y = A.lane (x + 3 * y) x := by
  rw [piStep, lane_build]
  exact lane_congr A (by omega) (by omega)

/-- PI by source (R103): the lane at (x, y) goes to (y, 2x + 3y), since y + 3(2x + 3y) = x + 5(x + 2y). -/
theorem piStep_lane_target (A : KState) (x y : Nat) : (piStep A).lane y (2 * x + 3 * y) = A.lane x y := by
  rw [piStep_lane]
  exact lane_congr A (by omega) rfl

/-- CHI's lanes (R105), for all coordinates. -/
theorem chi_lane (B : KState) (x y : Nat) :
    (chi B).lane x y = B.lane x y ^^^ (~~~B.lane (x + 1) y &&& B.lane (x + 2) y) := by
  simp only [chi, lane_build, Nat.mod_add_mod]
  simp only [lane_mod_left, lane_mod_right]

/-- A row of one value, read at coordinates beyond 4 (R13). -/
theorem lane_of_constantRow {B : KState} {y : Nat} {v : Lane} (h : ∀ x < 5, B.lane x y = v) (x : Nat) :
    B.lane x y = v := by
  rw [← lane_mod_left]
  exact h _ (Nat.mod_lt x (by decide))

/-- CHI keeps a row of one value v, whatever v is, since ~~~v &&& v = 0 (R105). -/
theorem chi_lane_of_constantRow {B : KState} {y : Nat} {v : Lane} (h : ∀ x < 5, B.lane x y = v) (x : Nat) :
    (chi B).lane x y = v := by
  simp [chi_lane, lane_of_constantRow h]

/-- IOTA's lanes (R106). -/
theorem iota_lane (A : KState) (i : Nat) {x y : Nat} (hx : x < 5) (hy : y < 5) :
    (iota A i).lane x y = if x = 0 ∧ y = 0 then A.lane 0 0 ^^^ rc i else A.lane x y := by
  rw [iota, lane_setLane, Nat.mod_eq_of_lt hx, Nat.mod_eq_of_lt hy]

/-! ## The constant tables -/

/-- The walk of R110 meets every position but (0, 0), with its entry of the rotation table. -/
theorem rotGenerated_eq_rot : ∀ x < 5, ∀ y < 5, rotGenerated x y = rot x y := by decide +kernel

/-- The LFSR of R112 gives the table of R111. -/
theorem rcGenerated_eq_rc : ∀ i < 24, rcGenerated i = rc i := by decide +kernel

/-- The bits of the round constants lie at the positions 2^j − 1 that the draws of R112 set. -/
theorem rc_bit_positions : ∀ i < 24, ∀ k < 64, (rc i).getLsbD k = true → k ∈ [0, 1, 3, 7, 15, 31, 63] := by
  decide +kernel

/-- The register after the 24 rounds of a permutation is not the seed 0x01 (R113). -/
theorem lfsrBefore_24 : lfsrBefore 24 = 0x8E := by decide +kernel

/-! ## The obligations -/

/-- Settles O47: bit by bit, whether or not it wraps around. -/
theorem rotationMovesBits : Obligations.RotationMovesBits :=
  fun _ => ⟨rfl, fun _ hn _ hk => rotl_getLsbD _ hn hk⟩

/-- Settles O48: THETA's lanes, which with even parities are the input's. -/
theorem thetaLanes : Obligations.ThetaLanes :=
  fun A => ⟨fun x _ y _ => theta_lane A x y, theta_of_evenParity⟩

/-- Settles O49: PI by source and by destination; from a common y and 2x + 3y, x follows modulo 5. -/
theorem piMovesLanes : Obligations.PiMovesLanes := by
  refine ⟨fun A x _ y _ => ⟨?_, ?_⟩, fun A => piStep_lane A 0 0, fun x _ y _ x' _ y' _ _ _ => by omega⟩
  · rw [lane_mod_right, piStep_lane_target]
  · rw [lane_mod_left, piStep_lane]

/-- Settles O50: PI by source, applied to RHO's lanes. -/
theorem rhoPiMovesRotatedLanes : Obligations.RhoPiMovesRotatedLanes := by
  refine fun A => ⟨rfl, fun x hx y hy => ⟨rho_lane A hx hy, ?_⟩⟩
  rw [rhoPi, lane_mod_right, piStep_lane_target, rho_lane A hx hy]

/-- Settles O51: CHI's lanes bit by bit; a row of one value stays as it is. -/
theorem chiMixesRows : Obligations.ChiMixesRows := by
  refine fun B => ⟨fun x _ y _ k hk => ?_, fun y _ h x _ => chi_lane_of_constantRow h x,
    fun y _ h x _ => chi_lane_of_constantRow h x⟩
  simp [chi_lane, hk]

/-- Settles O52: IOTA writes one lane. -/
theorem iotaTouchesOneLane : Obligations.IotaTouchesOneLane :=
  fun A i _ hx _ hy => iota_lane A i hx hy

/-- Settles O53, by running both generating rules. -/
theorem tablesAreGenerated : Obligations.TablesAreGenerated :=
  ⟨rotGenerated_eq_rot, rcGenerated_eq_rc, rc_bit_positions, lfsrBefore_24⟩

end Sys2Proof.Machine
end

section
/-!
PROOFS. The sponge (R131 to R140): what absorption does byte by byte, how often it permutes, and why the padding and the
block-wise form are absorption too. The idea of R138: absorbing the bytes of PADBYTES is PAD, so a digest is the squeezed
absorption of the padded message, and that absorption is one XOR of a block and one permutation at a time.
-/

namespace Sys2Proof.Machine

/-! ## StateXorByte as an operation -/

/-- XORing a zero byte changes nothing (R53). -/
@[simp] theorem stateXorByte_zero (A : KState) (o : Nat) : stateXorByte A o 0 = A := by
  refine kstate_ext fun x _ y _ => ?_
  rw [stateXorByte, lane_setLane]
  split
  · next h => simpa using lane_congr A h.1.symm h.2.symm
  · rfl

/-- Two XORs into one byte combine (R134). -/
theorem stateXorByte_stateXorByte_same (A : KState) (o : Nat) (b c : Byte) :
    stateXorByte (stateXorByte A o b) o c = stateXorByte A o (b ^^^ c) := by
  refine kstate_ext fun x _ y _ => ?_
  simp only [stateXorByte, lane_setLane]
  split
  · simp [BitVec.shiftLeft_xor_distrib, BitVec.xor_assoc]
  · rfl

/-! ## Absorption byte by byte -/

/-- ABSORB_BYTE before the last byte of a block only XORs (R131). -/
theorem absorbByte_of_lt {A : KState} {n : Nat} (h : n < 135) (b : Byte) :
    absorbByte ⟨A, n⟩ b = ⟨stateXorByte A n b, n + 1⟩ :=
  if_neg (by show n + 1 ≠ 136; omega)

/-- ABSORB_BYTE with the last byte of a block permutes and starts the next block (R131). -/
theorem absorbByte_last (A : KState) (b : Byte) : absorbByte ⟨A, 135⟩ b = ⟨keccakF (stateXorByte A 135 b), 0⟩ :=
  rfl

/-- ABSORB_BYTE counts blockOffset modulo the rate (R131). -/
theorem absorbByte_off {p : Sponge} (h : p.off < 136) (b : Byte) : (absorbByte p b).off = (p.off + 1) % 136 := by
  simp only [absorbByte, Config.rate]
  split
  · next hlast => rw [hlast]
  · show p.off + 1 = (p.off + 1) % 136
    omega

/-- Absorption continues (R140). -/
theorem absorb_append (a b : List Byte) : absorb (a ++ b) = b.foldl absorbByte (absorb a) :=
  List.foldl_append

/-- After L bytes blockOffset is L mod 136 (R137). -/
theorem absorb_off (m : List Byte) : (absorb m).off = m.length % 136 := by
  induction m using List.reverseRecOn with
  | nil => rfl
  | append_singleton m b ih =>
    rw [absorb_snoc, absorbByte_off (by omega), ih, Nat.mod_add_mod, List.length_append, List.length_singleton]

/-- ABSORB beside its count, one more byte (R132). -/
theorem absorbCounted_snoc (m : List Byte) (b : Byte) :
    absorbCounted (m ++ [b]) = absorbByteCounted (absorbCounted m) b := by
  simp [absorbCounted]

/-- The counted absorption is the absorption, and it has permuted once for every whole block (R137). -/
theorem absorbCounted_eq (m : List Byte) : absorbCounted m = (absorb m, m.length / 136) := by
  induction m using List.reverseRecOn with
  | nil => rfl
  | append_singleton m b ih =>
    have hcount : (if (absorb m).off + 1 = Config.rate then m.length / 136 + 1 else m.length / 136) =
        (m.length + 1) / 136 := by
      simp only [absorb_off, Config.rate]
      split <;> omega
    rw [absorbCounted_snoc, ih, absorbByteCounted, ← absorb_snoc, hcount, List.length_append, List.length_singleton]

/-! ## Padding -/

/-- XORing a byte under a condition is XORing that byte or 0. -/
theorem xor_ite_zero (c : Prop) [Decidable c] (v b : Byte) : (v ^^^ if c then b else 0) = if c then v ^^^ b else v := by
  split
  · rfl
  · exact BitVec.xor_zero

/-- The state bytes after the two padding XORs (R133). -/
theorem stateByte_padXors {p : Sponge} (hp : p.off < 136) {o : Nat} (ho : o < 200) :
    stateByte (padXors p) o =
      stateByte p.A o ^^^ (if o = p.off then 0x01 else 0x00) ^^^ (if o = 135 then 0x80 else 0x00) := by
  have hoff : p.off < 200 := by omega
  rw [padXors, stateByte_stateXorByte _ _ (by decide) ho, stateByte_stateXorByte _ _ hoff ho, xor_ite_zero,
    xor_ite_zero]
  rfl

/-- Absorbing zero bytes within a block only moves blockOffset. -/
theorem foldl_absorbByte_zeros {A : KState} {n k : Nat} (h : n + k < 136) :
    (zeros k).foldl absorbByte ⟨A, n⟩ = ⟨A, n + k⟩ := by
  induction k generalizing n with
  | zero => rfl
  | succ k ih =>
    rw [zeros, List.replicate_succ, List.foldl_cons, absorbByte_of_lt (by omega), stateXorByte_zero, ← zeros,
      ih (by omega), Nat.add_right_comm, Nat.add_assoc]

/-- Absorbing PADBYTES(blockOffset) is PAD (R133, R134, R138): the padding fills the block, so the last byte permutes. -/
theorem foldl_absorbByte_padBytes {p : Sponge} (hp : p.off < 136) : (padBytes p.off).foldl absorbByte p = ⟨pad p, 0⟩ := by
  obtain ⟨A, n⟩ := p
  change n < 136 at hp
  obtain rfl | hn := eq_or_ne n 135
  · have hboth : pad ⟨A, 135⟩ = keccakF (stateXorByte A 135 0x81) :=
      congrArg keccakF (stateXorByte_stateXorByte_same A 135 _ _)
    rw [hboth]
    rfl
  · have hfirst : n < 135 := by omega
    have hlast : n + 1 + (134 - n) = 135 := by omega
    simp only [padBytes, if_neg hn, List.foldl_append, List.foldl_cons, List.foldl_nil]
    rw [absorbByte_of_lt hfirst, foldl_absorbByte_zeros (Nat.lt_succ_of_le hlast.le), hlast, absorbByte_last]
    rfl

/-- PADBYTES(q) is what the block lacks after q bytes (R138). -/
theorem length_padBytes {q : Nat} (hq : q < 136) : (padBytes q).length = 136 - q := by
  by_cases h : q = 135
  · subst h
    rfl
  · simp only [padBytes, if_neg h, zeros, List.length_append, List.length_replicate, List.length_singleton]
    omega

/-- The padded message ends its last block (R138). -/
theorem length_paddedMessage_mod (m : List Byte) : (paddedMessage m).length % 136 = 0 := by
  rw [paddedMessage, List.length_append, length_padBytes (Nat.mod_lt _ (by decide))]
  show (m.length + (136 - m.length % 136)) % 136 = 0
  omega

/-- Absorbing the padded message is absorbing and padding (R138). -/
theorem absorb_paddedMessage (m : List Byte) : absorb (paddedMessage m) = ⟨pad (absorb m), 0⟩ := by
  have hoff : (absorb m).off = m.length % Config.rate := absorb_off m
  have hlt : (absorb m).off < 136 := hoff ▸ Nat.mod_lt _ (by decide)
  rw [paddedMessage, absorb_append, ← hoff, foldl_absorbByte_padBytes hlt]

/-! ## The block-wise form -/

/-- The first n steps of the XOR of block t of P into A (R138). -/
def xorBlockPrefix (P : List Byte) (t n : Nat) (A : KState) : KState :=
  (List.range n).foldl (fun A o => stateXorByte A o (P.getD (Config.rate * t + o) 0)) A

theorem xorBlockPrefix_rate (P : List Byte) (t : Nat) (A : KState) : xorBlockPrefix P t Config.rate A = xorBlock P t A :=
  rfl

theorem xorBlockPrefix_succ (P : List Byte) (t n : Nat) (A : KState) :
    xorBlockPrefix P t (n + 1) A = stateXorByte (xorBlockPrefix P t n A) n (P.getD (136 * t + n) 0) := by
  simp [xorBlockPrefix, List.range_succ]

/-- The whole-block steps of the block-wise form for the blocks before block k (R138). -/
def absorbBlocks (P : List Byte) (k : Nat) : KState :=
  (List.range k).foldl (fun A t => keccakF (xorBlock P t A)) .zero

theorem absorbBlocks_succ (P : List Byte) (k : Nat) :
    absorbBlocks P (k + 1) = keccakF (xorBlock P k (absorbBlocks P k)) := by
  simp [absorbBlocks, List.range_succ]

theorem keccak256Blocks_eq (m : List Byte) :
    keccak256Blocks m = squeeze (absorbBlocks (paddedMessage m) ((paddedMessage m).length / 136)) :=
  rfl

/-- ABSORB of one more byte of a message (R132). -/
theorem absorb_take_succ {P : List Byte} {n : Nat} (h : n < P.length) :
    absorb (P.take (n + 1)) = absorbByte (absorb (P.take n)) (P.getD n 0) := by
  rw [List.take_succ_eq_append_getElem h, absorb_snoc, List.getD_eq_getElem _ _ h]

/-- From a block boundary, absorbing less than a block is the XOR of its bytes (R131). -/
theorem absorb_take_partial {P : List Byte} {t : Nat} {A : KState} (hA : absorb (P.take (136 * t)) = ⟨A, 0⟩)
    {n : Nat} (hn : n < 136) (hlen : 136 * t + n ≤ P.length) :
    absorb (P.take (136 * t + n)) = ⟨xorBlockPrefix P t n A, n⟩ := by
  induction n with
  | zero => exact hA
  | succ n ih =>
    rw [← Nat.add_assoc, absorb_take_succ (by omega), ih (by omega) (by omega), absorbByte_of_lt (by omega),
      xorBlockPrefix_succ]

/-- Absorbing whole blocks byte by byte is absorbing them block by block (R138). -/
theorem absorb_take_blocks (P : List Byte) {k : Nat} (hk : 136 * k ≤ P.length) :
    absorb (P.take (136 * k)) = ⟨absorbBlocks P k, 0⟩ := by
  induction k with
  | zero => rfl
  | succ k ih =>
    have hbefore := absorb_take_partial (ih (by omega)) (n := 135) (by decide) (by omega)
    rw [show 136 * (k + 1) = 136 * k + 135 + 1 by omega, absorb_take_succ (by omega), hbefore, absorbByte_last,
      ← xorBlockPrefix_succ, absorbBlocks_succ, ← xorBlockPrefix_rate]

/-- A digest is the block-wise absorption of the padded message, squeezed (R136, R138). -/
theorem keccak256_eq_keccak256Blocks (m : List Byte) : keccak256 m = keccak256Blocks m := by
  have hwhole : 136 * ((paddedMessage m).length / 136) = (paddedMessage m).length :=
    Nat.mul_div_cancel' (Nat.dvd_of_mod_eq_zero (length_paddedMessage_mod m))
  have hblocks := absorb_take_blocks (paddedMessage m) hwhole.le
  rw [hwhole, List.take_length, absorb_paddedMessage] at hblocks
  obtain ⟨hstate, -⟩ := Sponge.mk.inj hblocks
  rw [keccak256Blocks_eq, keccak256, hstate]

/-! ## The obligations -/

/-- Settles O56: the byte at each of the two offsets takes its padding value, and 0x01 ^ 0x80 = 0x81. -/
theorem paddingTouchesTwoBytes : Obligations.PaddingTouchesTwoBytes := by
  refine fun p hp => ⟨rfl, fun o ho => stateByte_padXors hp ho, fun h135 => ?_⟩
  rw [stateByte_padXors hp (by decide), if_pos h135.symm, if_pos rfl, BitVec.xor_assoc]
  rfl

/-- Settles O57: absorption is a left fold over the bytes. -/
theorem absorptionContinues : Obligations.AbsorptionContinues :=
  absorb_append

/-- Settles O58: a byte permutes exactly where it takes the length over a multiple of 136. -/
theorem permutationCount : Obligations.PermutationCount := by
  refine fun m => ⟨?_, absorb_off m, ?_⟩
  · rw [permutationCalls, absorbCounted_eq]
  · rw [absorbCounted_eq]

/-- Settles O59: both forms absorb the padded message. -/
theorem blockwiseFormAgrees : Obligations.BlockwiseFormAgrees :=
  fun m => ⟨length_paddedMessage_mod m, keccak256_eq_keccak256Blocks m⟩

end Sys2Proof.Machine
end

section
/-!
PROOFS. What one step does (R160 to R170, R172, R180 to R184): the agent whose turn it is, and, for the Engine, the state each
command's accept and each data step leaves.
-/

namespace Sys2Proof.Machine

/-! ## Whose turn it is (R184) -/

/-- Settles O8: each kind of move of the plan has its own rule. -/
theorem stepMakesTheHostMove : Obligations.StepMakesTheHostMove :=
  fun _ => ⟨fun _ _ _ hp => ⟨fun _ ha => step_host hp ha, fun ha => step_hostHolds hp ha⟩,
    fun _ hp => step_engine hp, fun hp => step_noPlan hp⟩

theorem engineStep_accept_atHead {s : State} {w : Word} {i : Instr} (h : AtHead w s) (hd : decode w = .cmd i) :
    engineStep s = exec i s := by
  obtain ⟨hf, hp, hc⟩ := h
  exact engineStep_accept hf hp (cmd_of_head hc) hd

/-- Settles O7: in each of the three the turn is the Engine's, and its turn is the accept. -/
theorem stepRunsTheDecodedCommand : Obligations.StepRunsTheDecodedCommand := by
  intro s w i h hd
  refine ⟨fun hp => ?_, fun rest hp => ?_, fun who a rest hp ha => ?_⟩
  · exact (step_noPlan hp).trans (engineStep_accept_atHead h hd)
  · exact (step_engine hp).trans (engineStep_accept_atHead (s := setPlan rest s) h hd)
  · exact (step_hostHolds hp ha).trans (engineStep_accept_atHead h hd)

/-- Where a word has been placed the turn is the Engine's, and the plan after it is the one before the word was placed. -/
theorem step_placeCommand (w : Word) (s : State) :
    step (placeCommand w s) = engineStep (setPlan s.plan (placeCommand w s)) := by
  by_cases hplan : s.plan = []
  · have hsame : (placeCommand w s).plan = s.plan := by simp [hplan]
    rw [step_noPlan (hsame.trans hplan), ← hsame]
    rfl
  · exact step_engine (by simp [hplan])

/-- Settles O5: the word's 32 bits are the placed word, which decodes to its command. -/
theorem fetchedWordRuns : Obligations.FetchedWordRuns := by
  intro s i hi
  have hplaced : s.withFetchWord 32 (encode i).toNat = placeCommand (encode i) s := by
    rw [State.withFetchWord, Nat.mod_eq_of_lt (encode i).isLt, BitVec.ofNat_toNat, BitVec.setWidth_eq]
  rw [hplaced, step_placeCommand]
  exact engineStep_accept rfl rfl rfl (decode_encode hi)

/-! ## The accepts (R161 to R167) -/

/-- Settles O11: the branch of a WRITE that fits. -/
theorem writeIsAccepted : Obligations.WriteIsAccepted := by
  intro n s hfit
  have hfit : bufferAccepts n s = true := hfit
  rw [exec_write, if_pos hfit]
  rfl

/-- Settles O13: the branch of a FINALIZE with room. -/
theorem finalizePushesDigestOfBuffer : Obligations.FinalizePushesDigestOfBuffer := by
  intro s hroom
  have hroom : doutHasRoom s = true := hroom
  rw [exec_finalize, if_pos hroom]
  rfl

/-- Settles O14: RESET has the one branch. -/
theorem resetClearsBufferAndMode : Obligations.ResetClearsBufferAndMode :=
  exec_reset

/-- Settles O15: the branches of a GETHASH with room. -/
theorem getHashIsAccepted : Obligations.GetHashIsAccepted := by
  intro n s hroom
  have hroom : doutHasRoom s = true := hroom
  rw [exec_getHash, if_pos hroom]
  rfl

/-- FINALIZE leaves MODE, whether it pushes or waits (R170). -/
theorem exec_finalize_mode (s : State) : ∃ t, exec .finalize s = .next t ∧ t.mode = s.mode :=
  ⟨_, exec_finalize s, by split <;> rfl⟩

/-- GETHASH leaves MODE, whether it pushes, starts its data steps or waits (R170). -/
theorem exec_getHash_mode (n : Nat) (s : State) : ∃ t, exec (.getHash n) s = .next t ∧ t.mode = s.mode := by
  refine ⟨_, exec_getHash n s, ?_⟩
  split
  · split <;> rfl
  · rfl

/-- A WRITE that does not fit is rejected (R161, R218). -/
theorem exec_write_overflow {n : Nat} {s : State} (h : allows s.params.bufCap (s.buf.length + n) = false) :
    exec (.write n) s = .next (rejectCommand .bufOverflow s) := by
  have hfit : ¬ bufferAccepts n s = true := Bool.eq_false_iff.1 h
  rw [exec_write, if_neg hfit]

/-- Settles O32: WRITE and RESET set MODE, and a rejected word leaves it, as FINALIZE and GETHASH do. -/
theorem modeTransitionTable : Obligations.ModeTransitionTable := by
  intro n s
  refine ⟨fun hfit => ?_, exec_finalize_mode s, ⟨_, exec_reset s, rfl⟩, exec_getHash_mode n s, fun hover => ?_,
    fun w k h hd => ?_⟩
  · exact ⟨_, writeIsAccepted n s hfit, rfl⟩
  · exact ⟨_, exec_write_overflow hover, rfl⟩
  · exact ⟨_, engineStep_reject_atHead h hd, rfl⟩

/-! ## The data steps (R163, R168) -/

/-- Settles O19: the Engine's turn at WDATA with a byte in DIN. -/
theorem writeDataStep : Obligations.WriteDataStep :=
  fun _ _ _ _ hf hp hd => engineStep_wdata hf hp hd

/-- Settles O20: the Engine's turn at GDATA with a byte in DIN. -/
theorem getHashDataStep : Obligations.GetHashDataStep :=
  fun _ _ _ _ _ hf hp hd => engineStep_gdata hf hp hd

/-! ## What the Engine adds to DOUT (R177) -/

/-- The accept of a command adds nothing to DOUT or one digest, of BUF or of the empty message (R164, R167). -/
theorem exec_dout {i : Instr} {s t : State} (h : exec i s = .next t) :
    t.dout = s.dout ∨
    ∃ m, t.dout = s.dout ++ keccak256 m ∧ (i = .finalize ∧ m = s.buf ∨ i = .getHash 0 ∧ m = []) := by
  obtain ⟨n, -, -, rfl⟩ | ⟨n, -, -, rfl⟩ | ⟨m, hm, -, rfl⟩ | ⟨-, rfl⟩ | ⟨n, -, -, -, rfl⟩ | ⟨-, -, rfl⟩ := exec_cases h
  case inr.inr.inl => exact .inr ⟨m, rfl, hm⟩
  all_goals exact .inl rfl

/-- A GETHASH's data step adds to DOUT at its last byte, the digest of MSG (R168). -/
theorem gdataFinish_dout (r : Nat) (msg : List Byte) (s : State) :
    (gdataFinish r msg s).dout = if r = 1 then s.dout ++ keccak256 msg else s.dout := by
  unfold gdataFinish
  split <;> rfl

/-- Settles O34: FINALIZE, GETHASH 0 and the last data step of a GETHASH push a digest; no other turn writes DOUT. -/
theorem digestsArePushedWhole : Obligations.DigestsArePushedWhole := by
  intro s t h
  obtain rfl | ⟨w, ws, k, -, -, -, -, rfl⟩ | ⟨w, ws, i, hf, hp, hc, hd, he⟩ | ⟨r, b, ds, -, -, -, rfl⟩ |
    ⟨r, msg, b, ds, -, hp, hd, rfl⟩ := engineStep_cases h
  · exact .inl rfl
  · exact .inl rfl
  · have hhead := atHead_of_cmd hf hp hc
    obtain hsame | ⟨m, hdout, ⟨rfl, hm⟩ | ⟨rfl, hm⟩⟩ := exec_dout he
    · exact .inl hsame
    · exact .inr ⟨m, hdout, length_keccak256 m, .inl ⟨w, hhead, hd, hm⟩⟩
    · exact .inr ⟨m, hdout, length_keccak256 m, .inr (.inl ⟨w, hhead, hd, hm⟩)⟩
  · exact .inl rfl
  · rw [gdataFinish_dout]
    split
    · next hr => exact .inr ⟨_, rfl, length_keccak256 _, .inr (.inr ⟨msg, b, ds, hr ▸ hp, hd, rfl⟩)⟩
    · exact .inl rfl

/-! ## No step changes the sizes (R9) -/

@[simp] theorem gdataFinish_params (r : Nat) (msg : List Byte) (s : State) :
    (gdataFinish r msg s).params = s.params := by
  unfold gdataFinish
  split <;> rfl

theorem exec_params {i : Instr} {s t : State} (h : exec i s = .next t) : t.params = s.params := by
  obtain ⟨n, -, -, rfl⟩ | ⟨n, -, -, rfl⟩ | ⟨m, -, -, rfl⟩ | ⟨-, rfl⟩ | ⟨n, -, -, -, rfl⟩ | ⟨-, -, rfl⟩ := exec_cases h
  all_goals rfl

theorem engineStep_params {s t : State} (h : engineStep s = .next t) : t.params = s.params := by
  obtain rfl | ⟨w, ws, k, -, -, -, -, rfl⟩ | ⟨w, ws, i, -, -, -, -, he⟩ | ⟨r, b, ds, -, -, -, rfl⟩ |
    ⟨r, msg, b, ds, -, -, -, rfl⟩ := engineStep_cases h
  · rfl
  · rfl
  · exact exec_params he
  · rfl
  · simp

theorem hostAct_params {who : Nat} {a : HostAction} {s t : State} (h : hostAct who a s = some t) :
    t.params = s.params := by
  obtain ⟨w, -, -, rfl⟩ | ⟨b, -, -, rfl⟩ | ⟨b, rest, -, -, rfl⟩ | ⟨-, rfl⟩ := hostAct_cases h
  all_goals rfl

/-- Settles O10: every turn answers a next state, and none of the three agents writes the sizes. -/
theorem stepAlwaysAnswers : Obligations.StepAlwaysAnswers := by
  intro s
  obtain ⟨t, ht⟩ := step_isNext s
  refine ⟨t, ht, ?_⟩
  obtain ⟨plan, he⟩ | ⟨who, a, plan, ha⟩ | ⟨rest, -, rfl⟩ := step_agents ht
  · exact engineStep_params (s := setPlan plan s) he
  · exact hostAct_params (s := setPlan plan s) ha
  · rfl

end Sys2Proof.Machine
end

section
/-!
PROOFS. The holds (R160): what each is, that the Engine stands still in exactly these, and which Host action lifts which.
-/

namespace Sys2Proof.Machine

/-! ## The rows of the table

Each row's condition is one branch of `holdOf`, and the branches exclude each other. -/

theorem givesDigest_iff (w : Word) :
    givesDigest w = true ↔ decode w = .cmd .finalize ∨ ∃ n, decode w = .cmd (.getHash n) := by
  unfold givesDigest
  split <;> simp_all

/-- FAULTED: FAULT = 1, whatever PHASE is (R171). -/
theorem holdOf_eq_faulted {s : State} : holdOf s = some .faulted ↔ s.fault = true := by
  unfold holdOf
  repeat' split
  all_goals simp_all

/-- CMD-EMPTY: between commands, with no word to accept. -/
theorem holdOf_eq_cmdEmpty {s : State} :
    holdOf s = some .cmdEmpty ↔ s.fault = false ∧ s.phase = .idle ∧ s.cmd = [] := by
  unfold holdOf
  repeat' split
  all_goals simp_all

/-- DIN-EMPTY: mid-command, with no data byte to take. -/
theorem holdOf_eq_dinEmpty {s : State} :
    holdOf s = some .dinEmpty ↔ s.fault = false ∧ s.phase ≠ .idle ∧ s.din = [] := by
  unfold holdOf
  repeat' split
  all_goals simp_all

/-- DOUT-SPACE: a FINALIZE or GETHASH at the head of CMD, without room in DOUT for its digest (R209). -/
theorem holdOf_eq_doutSpace {s : State} :
    holdOf s = some .doutSpace ↔ ∃ w, AtHead w s ∧ givesDigest w = true ∧ doutHasRoom s = false := by
  unfold holdOf
  repeat' split
  all_goals simp_all [AtHead]

/-! ## The Engine in a hold and outside one -/

/-- ACCEPT with CMD empty holds (R160). -/
theorem engineStep_cmdEmpty {s : State} (hf : s.fault = false) (hp : s.phase = .idle) (hc : s.cmd = []) :
    engineStep s = .next s := by
  simp [engineStep, acceptStep, hf, hp, hc]

/-- ACCEPT of a command that gives a digest holds without room for it (R160, R209). -/
theorem engineStep_doutSpace {s : State} {w : Word} (h : AtHead w s) (hw : givesDigest w = true)
    (hroom : doutHasRoom s = false) : engineStep s = .next s := by
  have hfull : ¬ doutHasRoom s = true := Bool.eq_false_iff.1 hroom
  obtain hd | ⟨n, hd⟩ := (givesDigest_iff w).1 hw
  · rw [engineStep_accept_atHead h hd, exec_finalize, if_neg hfull]
  · rw [engineStep_accept_atHead h hd, exec_getHash, if_neg hfull]

theorem engineStep_of_hold {s : State} {k : Hold} (h : holdOf s = some k) : engineStep s = .next s := by
  cases k with
  | cmdEmpty =>
    obtain ⟨hf, hp, hc⟩ := holdOf_eq_cmdEmpty.1 h
    exact engineStep_cmdEmpty hf hp hc
  | dinEmpty =>
    obtain ⟨hf, hp, hd⟩ := holdOf_eq_dinEmpty.1 h
    exact engineStep_dinEmpty hf hp hd
  | doutSpace =>
    obtain ⟨w, hhead, hw, hroom⟩ := holdOf_eq_doutSpace.1 h
    exact engineStep_doutSpace hhead hw hroom
  | faulted => exact engineStep_faulted (holdOf_eq_faulted.1 h)

@[simp] theorem gdataFinish_din (r : Nat) (msg : List Byte) (s : State) : (gdataFinish r msg s).din = s.din := by
  unfold gdataFinish
  split <;> rfl

/-- The accept of a command takes its word, if a command that gives a digest has room for it (R161, R209). -/
theorem exec_takesWord {i : Instr} {s : State} (hroom : (i = .finalize ∨ ∃ n, i = .getHash n) → doutHasRoom s = true) :
    ∃ t, exec i s = .next t ∧ t.cmd = s.cmd.tail ∧ t.din = s.din := by
  obtain ⟨e, hwords, hbytes, he⟩ := exec_effect hroom
  exact ⟨e.apply s, he s (.refl s), by simp [Effect.apply, hwords], by simp [Effect.apply, hbytes]⟩

/-- Settles O25: the rows of the table one by one, and outside them the enabled steps one by one. -/
theorem engineHoldsExactlyInTheHolds : Obligations.EngineHoldsExactlyInTheHolds := by
  intro s
  refine ⟨fun k h => engineStep_of_hold h, fun h => ?_⟩
  obtain ⟨hf, ⟨w, ws, hp, hc, hroom⟩ | ⟨r, b, ds, hp, hd⟩ | ⟨r, msg, b, ds, hp, hd⟩⟩ := enabled_cases h
  · have hne : s.cmd ≠ [] := by simp [hc]
    cases hw : decode w with
    | err k => exact ⟨_, engineStep_reject hf hp hc hw, .inl ⟨hne, rfl, rfl⟩⟩
    | cmd i =>
      have hroom' : (i = .finalize ∨ ∃ n, i = .getHash n) → doutHasRoom s = true := by
        rintro (rfl | ⟨n, rfl⟩) <;> exact hroom (by simp [givesDigest, hw])
      obtain ⟨t, he, hcmd, hdin⟩ := exec_takesWord hroom'
      exact ⟨t, (engineStep_accept hf hp hc hw).trans he, .inl ⟨hne, hcmd, hdin⟩⟩
  · exact ⟨_, engineStep_wdata hf hp hd, .inr ⟨by simp [hd], by simp [hd], rfl⟩⟩
  · exact ⟨_, engineStep_gdata hf hp hd, .inr ⟨by simp [hd], by simp [hd], by simp⟩⟩

/-! ## The Host's side -/

/-- Settles O36: each action as its definition names it. -/
theorem hostActionsAsNamed : Obligations.HostActionsAsNamed := by
  intro who s
  refine ⟨fun _ => rfl, fun _ => rfl, fun hd => ?_, fun b rest hd => ?_, rfl⟩
  · simp [hostAct, hostPopDout, hd]
  · simp [hostAct, hostPopDout, hd]

/-- A push to CMD lifts CMD-EMPTY: CMD has a word after it. -/
theorem pushCmd_lifts_cmdEmpty {who : Nat} {w : Word} {s t : State} (h : hostAct who (.pushCmd w) s = some t) :
    holdOf t ≠ some .cmdEmpty := by
  obtain ⟨w', -, -, rfl⟩ | ⟨b, ha, -⟩ | ⟨b, rest, ha, -⟩ | ⟨ha, -⟩ := hostAct_cases h
  · simp [holdOf_eq_cmdEmpty]
  all_goals cases ha

/-- A push to DIN lifts DIN-EMPTY: DIN has a byte after it. -/
theorem pushDin_lifts_dinEmpty {who : Nat} {b : Byte} {s t : State} (h : hostAct who (.pushDin b) s = some t) :
    holdOf t ≠ some .dinEmpty := by
  obtain ⟨w, ha, -⟩ | ⟨b', -, -, rfl⟩ | ⟨b', rest, ha, -⟩ | ⟨ha, -⟩ := hostAct_cases h
  case inr.inl => simp [holdOf_eq_dinEmpty]
  all_goals cases ha

/-- A push to CMD goes behind the word that waits for room in DOUT, and so leaves it waiting. -/
theorem pushCmd_keeps_doutSpace {w : Word} {s : State} (h : holdOf s = some .doutSpace) :
    holdOf { s with cmd := s.cmd ++ [w] } = some .doutSpace := by
  obtain ⟨w', ⟨hf, hp, hc⟩, hw, hroom⟩ := holdOf_eq_doutSpace.1 h
  exact holdOf_eq_doutSpace.2 ⟨w', ⟨hf, hp, by simp [hc]⟩, hw, hroom⟩

/-- Settles O26: an action that does not write what a row of the table asks leaves that row's hold. -/
theorem holdsAreLiftedAsNamed : Obligations.HoldsAreLiftedAsNamed := by
  refine ⟨fun s t who a k h ha hlifted => ?_, fun s t who w _ ha => pushCmd_lifts_cmdEmpty ha,
    fun s t who b _ ha => pushDin_lifts_dinEmpty ha⟩
  cases k with
  | cmdEmpty =>
    have hrow := holdOf_eq_cmdEmpty.1 h
    obtain ⟨w, rfl, -, rfl⟩ | ⟨b, rfl, -, rfl⟩ | ⟨b, rest, rfl, -, rfl⟩ | ⟨rfl, rfl⟩ := hostAct_cases ha
    case inl => exact .inl ⟨rfl, w, rfl⟩
    all_goals exact (hlifted (holdOf_eq_cmdEmpty.2 hrow)).elim
  | dinEmpty =>
    have hrow := holdOf_eq_dinEmpty.1 h
    obtain ⟨w, rfl, -, rfl⟩ | ⟨b, rfl, -, rfl⟩ | ⟨b, rest, rfl, -, rfl⟩ | ⟨rfl, rfl⟩ := hostAct_cases ha
    case inr.inl => exact .inr (.inl ⟨rfl, b, rfl⟩)
    all_goals exact (hlifted (holdOf_eq_dinEmpty.2 hrow)).elim
  | doutSpace =>
    have hrow := holdOf_eq_doutSpace.1 h
    obtain ⟨w, rfl, -, rfl⟩ | ⟨b, rfl, -, rfl⟩ | ⟨b, rest, rfl, -, rfl⟩ | ⟨rfl, rfl⟩ := hostAct_cases ha
    case inl => exact (hlifted (pushCmd_keeps_doutSpace h)).elim
    case inr.inr.inl => exact .inr (.inr ⟨rfl, rfl⟩)
    all_goals exact (hlifted (holdOf_eq_doutSpace.2 hrow)).elim
  | faulted =>
    have hrow := holdOf_eq_faulted.1 h
    obtain ⟨w, rfl, -, rfl⟩ | ⟨b, rfl, -, rfl⟩ | ⟨b, rest, rfl, -, rfl⟩ | ⟨rfl, rfl⟩ := hostAct_cases ha
    all_goals exact (hlifted (holdOf_eq_faulted.2 hrow)).elim

end Sys2Proof.Machine
end

section
/-!
PROOFS. Programs of several commands, as runs with no Host move meanwhile (R173 to R176): WRITEs and then FINALIZE, two
FINALIZEs with what R173 allows between them, a block after RESET, and GETHASH against RESET, WRITE, FINALIZE.
-/

namespace Sys2Proof.Machine

/-- A run that is known in two parts. -/
theorem runSteps_trans {s t u : State} {j k : Nat} (h : runSteps j s = .next t) (h' : runSteps k t = .next u) :
    runSteps (j + k) s = .next u :=
  (runSteps_add k h).trans h'

/-- A FINALIZE with room for its digest is one step (R164). -/
theorem step_finalize {s : State} {ws : List Word} (hf : s.fault = false) (hp : s.phase = .idle) (hplan : s.plan = [])
    (hc : s.cmd = encode .finalize :: ws) (hroom : allows s.params.doutDepth (s.dout.length + 32) = true) :
    step s = .next { s with cmd := ws, dout := s.dout ++ keccak256 s.buf } := by
  rw [step_accept rfl hf hp hplan hc, finalizePushesDigestOfBuffer s hroom, hc, List.tail_cons]

/-! ## WRITEs of the chunks of a message (R174) -/

theorem writeStepCount_cons (c : List Byte) (chunks : List (List Byte)) :
    writeStepCount (c :: chunks) = c.length + 1 + writeStepCount chunks := by
  simp [writeStepCount]

/-- WRITEs of any chunks append them all to BUF, in order. -/
theorem runSteps_writes (behind : List Byte) (ws : List Word) (chunks : List (List Byte))
    (hlen : ∀ c ∈ chunks, c.length ≤ Config.maxCount) :
    ∀ s : State, s.fault = false → s.phase = .idle → s.plan = [] → s.cmd = writeWords chunks ++ ws →
      s.din = chunks.flatten ++ behind → allows s.params.bufCap (s.buf.length + chunks.flatten.length) = true →
      runSteps (writeStepCount chunks) s = .next { s with
        cmd := ws, din := behind, buf := s.buf ++ chunks.flatten,
        mode := if chunks = [] then s.mode else .accumulating } := by
  induction chunks with
  | nil =>
    intro s _ _ _ hc hd _
    obtain rfl : s.cmd = ws := hc
    obtain rfl : s.din = behind := hd
    simp [writeStepCount]
  | cons c chunks ih =>
    intro s hf hp hplan hc hd hbuf
    rw [List.forall_mem_cons] at hlen
    rw [List.flatten_cons, List.length_append, ← Nat.add_assoc] at hbuf
    rw [List.flatten_cons, List.append_assoc] at hd
    have hfirst := writeAppendsItsMessage c (chunks.flatten ++ behind) (writeWords chunks ++ ws) s hf hp hplan hlen.1
      hc hd (allows_mono hbuf (Nat.le_add_right _ _))
    rw [writeStepCount_cons]
    refine (runSteps_trans hfirst (ih hlen.2 _ hf hp hplan rfl rfl (by rwa [List.length_append]))).trans ?_
    simp

/-- Settles O42: the WRITEs leave the joined message behind BUF, and FINALIZE digests that. -/
theorem streamingAdditivity : Obligations.StreamingAdditivity := by
  intro chunks behind ws s hf hp hplan hne hlen hc hd hbuf hroom
  have hwrites := runSteps_writes behind (encode .finalize :: ws) chunks hlen s hf hp hplan hc hd hbuf
  rw [if_neg hne] at hwrites
  exact runSteps_trans hwrites (runSteps_succ 0 (step_finalize hf hp hplan rfl hroom))

/-! ## Between two FINALIZEs (R173) -/

/-- A zero-length WRITE or a GETHASH leaves BUF and pushes its own digest, if it has one. -/
theorem runSteps_betweenCommand {m : Option (List Byte)} {behind : List Byte} {ws : List Word} {s : State}
    (hlen : (betweenData m).length ≤ Config.maxCount) (hf : s.fault = false) (hp : s.phase = .idle)
    (hplan : s.plan = []) (hc : s.cmd = encode (betweenCommand m) :: ws) (hd : s.din = betweenData m ++ behind)
    (hbuf : allows s.params.bufCap s.buf.length = true)
    (hroom : allows s.params.doutDepth (s.dout.length + (betweenDigest m).length) = true) :
    runSteps ((betweenData m).length + 1) s = .next { s with
      cmd := ws, din := behind, mode := if m = none then .accumulating else s.mode,
      dout := s.dout ++ betweenDigest m } := by
  cases m with
  | none =>
    refine (writeAppendsItsMessage [] behind ws s hf hp hplan hlen hc hd hbuf).trans ?_
    simp [betweenDigest]
  | some a =>
    rw [betweenDigest, length_keccak256] at hroom
    exact getHashDigestsItsMessage a behind ws s hf hp hplan hlen hc hd hroom

theorem betweenStepCount_cons (m : Option (List Byte)) (ms : List (Option (List Byte))) :
    betweenStepCount (m :: ms) = (betweenData m).length + 1 + betweenStepCount ms := by
  simp [betweenStepCount]

/-- Any number of such commands, in any order, leave BUF and push their digests in order. -/
theorem runSteps_between (behind : List Byte) (ws : List Word) (ms : List (Option (List Byte)))
    (hlen : ∀ m ∈ ms, (betweenData m).length ≤ Config.maxCount) :
    ∀ s : State, s.fault = false → s.phase = .idle → s.plan = [] →
      s.cmd = (ms.map fun m => encode (betweenCommand m)) ++ ws → s.din = ms.flatMap betweenData ++ behind →
      allows s.params.bufCap s.buf.length = true →
      allows s.params.doutDepth (s.dout.length + (ms.flatMap betweenDigest).length) = true →
      runSteps (betweenStepCount ms) s = .next { s with
        cmd := ws, din := behind, mode := if none ∈ ms then .accumulating else s.mode,
        dout := s.dout ++ ms.flatMap betweenDigest } := by
  induction ms with
  | nil =>
    intro s _ _ _ hc hd _ _
    obtain rfl : s.cmd = ws := hc
    obtain rfl : s.din = behind := hd
    simp [betweenStepCount]
  | cons m ms ih =>
    intro s hf hp hplan hc hd hbuf hroom
    rw [List.forall_mem_cons] at hlen
    rw [List.flatMap_cons, List.length_append, ← Nat.add_assoc] at hroom
    rw [List.flatMap_cons, List.append_assoc] at hd
    have hfirst := runSteps_betweenCommand hlen.1 hf hp hplan hc hd hbuf (allows_mono hroom (Nat.le_add_right _ _))
    rw [betweenStepCount_cons]
    refine (runSteps_trans hfirst (ih hlen.2 _ hf hp hplan rfl rfl hbuf (by rwa [List.length_append]))).trans ?_
    cases m <;> simp

/-- Settles O43: neither the first FINALIZE nor the commands behind it write BUF. -/
theorem finalizeIsIdempotent : Obligations.FinalizeIsIdempotent := by
  intro ms behind ws s hf hp hplan hlen hc hd hbuf hroom
  have hfirst := step_finalize hf hp hplan hc (allows_mono hroom (by omega))
  rw [runSteps_succ _ hfirst]
  refine runSteps_trans (runSteps_between behind (encode .finalize :: ws) ms hlen _ hf hp hplan rfl hd hbuf ?_)
    (runSteps_succ 0 (step_finalize hf hp hplan rfl ?_))
  all_goals
    refine allows_mono hroom ?_
    simp only [List.length_append, length_keccak256]
    omega

/-! ## RESET (R175) -/

/-- Settles O44: RESET clears BUF and MODE, and the other registers of an accepting block have their reset values. -/
theorem resetEquivalence : Obligations.ResetEquivalence := by
  intro k s after h hfcode hplan
  obtain ⟨hf, hp, -⟩ := id h
  have hreset : step s = .next (clearBuf (popCmd (setPlan after s))) :=
    (step_engine hplan).trans (engineStep_accept_atHead (s := setPlan after s) h (decode_encode rfl))
  rw [runSteps_succ k hreset]
  simp [clearBuf, popCmd, setPlan, State.reset, hf, hp, hfcode]

/-! ## GETHASH and HASH (R176) -/

/-- HASH on a newly reset block: RESET, and then the WRITE and FINALIZE of one chunk with nothing in BUF (R81, R174). -/
theorem runSteps_hash {m : List Byte} {p : Params} (hlen : m.length ≤ Config.maxCount)
    (hbuf : allows p.bufCap m.length = true) (hroom : allows p.doutDepth 32 = true) :
    runSteps (m.length + 3)
      { State.reset with
        params := p, cmd := [encode .reset, encode (.write m.length), encode .finalize], din := m } =
    .next { State.reset with params := p, buf := m, mode := .accumulating, dout := keccak256 m } := by
  have hwrite := streamingAdditivity [m] [] []
    { State.reset with params := p, cmd := [encode (.write m.length), encode .finalize], din := m }
    rfl rfl rfl (by simp) (by simpa using hlen) rfl (by simp) (by simpa [State.reset] using hbuf) hroom
  rw [List.flatten_singleton] at hwrite
  exact (runSteps_succ (m.length + 2) (step_accept (i := .reset) rfl rfl rfl rfl rfl)).trans hwrite

/-- Settles O45: both runs push the digest of `m`, one in its own state and one after HASH. -/
theorem getHashEquivalence : Obligations.GetHashEquivalence := by
  intro m s p hlen hf hp hplan hc hd hroom hbuf hfresh
  have hget := getHashDigestsItsMessage m [] [] s hf hp hplan hlen hc (hd.trans (List.append_nil m).symm) hroom
  exact ⟨_, _, hget, runSteps_hash hlen hbuf hfresh, rfl, length_keccak256 m, rfl, rfl, rfl, rfl⟩

end Sys2Proof.Machine
end

section
/-!
PROOFS. The fault state (R200 to R205, R218) and the waits that are no fault (R207, R209): how the block enters the fault state,
what a run leaves unchanged in it, and how long a command without its data or without room waits.
-/

namespace Sys2Proof.Machine

/-! ## Entering the fault state (R201, R202) -/

@[simp] theorem gdataFinish_fault (r : Nat) (msg : List Byte) (s : State) : (gdataFinish r msg s).fault = s.fault := by
  unfold gdataFinish
  split <;> rfl

/-- Of the commands, an overflowing WRITE alone writes FAULT, by its rejection (R161). -/
theorem exec_fault {i : Instr} {s t : State} (h : exec i s = .next t) :
    t.fault = s.fault ∨ ∃ n, i = .write n ∧ bufferAccepts n s = false ∧ t = rejectCommand .bufOverflow s := by
  obtain ⟨n, -, -, rfl⟩ | ⟨n, hi, hover, ht⟩ | ⟨m, -, -, rfl⟩ | ⟨-, rfl⟩ | ⟨n, -, -, -, rfl⟩ | ⟨-, -, rfl⟩ := exec_cases h
  case inr.inl => exact .inr ⟨n, hi, hover, ht⟩
  all_goals exact .inl rfl

/-- ACCEPT of the word `w` at `s` violates the caller contract for the cause `k` (R201). -/
def Offends (w : Word) (k : FaultCause) (s : State) : Prop :=
  decode w = .err k ∨ (k = .bufOverflow ∧ ∃ n, decode w = .cmd (.write n) ∧ bufferAccepts n s = false)

/-- The three causes with their words and their codes (R74, R75, R218). -/
theorem Offends.cases {w : Word} {k : FaultCause} {s : State} (h : Offends w k s) :
    (decode w = .err .illegalOpcode ∧ fcodeOf k = 1) ∨ (decode w = .err .reservedNonzero ∧ fcodeOf k = 2) ∨
      (∃ n, decode w = .cmd (.write n) ∧ bufferAccepts n s = false ∧ fcodeOf k = 3) := by
  obtain hd | ⟨rfl, n, hd, hover⟩ := h
  · obtain rfl | rfl := err_of_decode hd
    · exact .inl ⟨hd, rfl⟩
    · exact .inr (.inl ⟨hd, rfl⟩)
  · exact .inr (.inr ⟨n, hd, hover, rfl⟩)

/-- The Engine enters the fault state by the rejection of an offending head word, and in no other way (R202). -/
theorem engineStep_entersFault {s t : State} (hs : s.fault = false) (h : engineStep s = .next t) (ht : t.fault = true) :
    ∃ w k, AtHead w s ∧ Offends w k s ∧ t = rejectCommand k s := by
  have hchanged : t.fault ≠ s.fault := by simp [hs, ht]
  obtain rfl | ⟨w, ws, k, hf, hp, hc, hd, rfl⟩ | ⟨w, ws, i, hf, hp, hc, hd, he⟩ | ⟨r, b, ds, -, -, -, rfl⟩ |
    ⟨r, msg, b, ds, -, -, -, rfl⟩ := engineStep_cases h
  · exact absurd rfl hchanged
  · exact ⟨w, k, atHead_of_cmd hf hp hc, .inl hd, rfl⟩
  · obtain hsame | ⟨n, rfl, hover, rfl⟩ := exec_fault he
    · exact absurd hsame hchanged
    · exact ⟨w, .bufOverflow, atHead_of_cmd hf hp hc, .inr ⟨rfl, n, hd, hover⟩, rfl⟩
  · exact absurd rfl hchanged
  · exact absurd (by simp) hchanged

/-! ## Host moves, in any state -/

theorem AfterHosts.trans {s t u : State} (h : AfterHosts s t) (h' : AfterHosts t u) : AfterHosts s u where
  params := h'.params.trans h.params
  buf := h'.buf.trans h.buf
  mode := h'.mode.trans h.mode
  fault := h'.fault.trans h.fault
  fcode := h'.fcode.trans h.fcode
  phase := h'.phase.trans h.phase
  cmd := h.cmd.trans h'.cmd
  din := h.din.trans h'.din
  dout := h'.dout.trans h.dout

/-- `t` comes after `s` by moves of the Hosts alone: `AfterHosts`, with what Hosts do to DOUT, which is to pop it, and with the
moves made gone from the front of the plan. -/
structure HostsOnly (s t : State) : Prop where
  block : AfterHosts s t
  dout : t.dout <:+ s.dout
  plan : t.plan <:+ s.plan

theorem HostsOnly.refl (s : State) : HostsOnly s s :=
  ⟨.refl s, List.suffix_rfl, List.suffix_rfl⟩

theorem HostsOnly.trans {s t u : State} (h : HostsOnly s t) (h' : HostsOnly t u) : HostsOnly s u :=
  ⟨h.block.trans h'.block, h'.dout.trans h.dout, h'.plan.trans h.plan⟩

/-- The moves to come and the Hosts' records are outside the block (assumptions 2 and 6). -/
theorem afterHosts_outside (s : State) (plan : List Move) (received : List (Nat × Byte))
    (statusReads : List (Nat × Word)) :
    AfterHosts s { s with plan := plan, received := received, statusReads := statusReads } :=
  { AfterHosts.refl s with }

theorem hostsOnly_setPlan {m : Move} {rest : List Move} {s : State} (hp : s.plan = m :: rest) :
    HostsOnly s (setPlan rest s) :=
  ⟨afterHosts_outside s rest s.received s.statusReads, List.suffix_rfl, hp ▸ List.suffix_cons m rest⟩

theorem hostAct_plan {who : Nat} {a : HostAction} {s t : State} (h : hostAct who a s = some t) : t.plan = s.plan := by
  obtain ⟨w, -, -, rfl⟩ | ⟨b, -, -, rfl⟩ | ⟨b, rest, -, -, rfl⟩ | ⟨-, rfl⟩ := hostAct_cases h
  all_goals rfl

/-- Of a Host's actions a pop alone writes DOUT, and takes its oldest byte (R182). -/
theorem hostAct_dout {who : Nat} {a : HostAction} {s t : State} (h : hostAct who a s = some t) : t.dout <:+ s.dout := by
  obtain ⟨w, -, -, rfl⟩ | ⟨b, -, -, rfl⟩ | ⟨b, rest, -, hd, rfl⟩ | ⟨-, rfl⟩ := hostAct_cases h
  case inr.inr.inl => exact hd ▸ List.suffix_cons b rest
  all_goals exact List.suffix_rfl

/-- A Host's action pushes to CMD or DIN, pops DOUT, or changes nothing of the block (R180 to R183). -/
theorem hostAct_hostsOnly {who : Nat} {a : HostAction} {s t : State} (h : hostAct who a s = some t) : HostsOnly s t := by
  refine ⟨?_, hostAct_dout h, hostAct_plan h ▸ List.suffix_rfl⟩
  by_cases ha : a = .readStatus
  · subst ha
    cases h
    exact afterHosts_outside s s.plan s.received _
  · exact hostAct_afterHosts ha h

/-! ## In the fault state (R171, R204, R205) -/

theorem eq_of_engineStep_faulted {s t : State} (hf : s.fault = true) (h : engineStep s = .next t) : t = s :=
  (Host.Outcome.next.inj ((engineStep_faulted hf).symm.trans h)).symm

/-- In the fault state a step is a move of a Host, a turn of the Engine, which does nothing, or hardware reset. -/
theorem step_faulted {s t : State} (hf : s.fault = true) (h : step s = .next t) :
    HostsOnly s t ∨ ∃ rest, s.plan = .hardwareReset :: rest := by
  obtain ⟨-, he⟩ | ⟨rest, hp, he⟩ | ⟨who, a, rest, hp, ha⟩ | ⟨who, a, rest, -, -, he⟩ | ⟨rest, hp, -⟩ := step_cases h
  · obtain rfl := eq_of_engineStep_faulted hf he
    exact .inl (.refl _)
  · obtain rfl := eq_of_engineStep_faulted (s := setPlan rest s) hf he
    exact .inl (hostsOnly_setPlan hp)
  · exact .inl ((hostsOnly_setPlan hp).trans (hostAct_hostsOnly ha))
  · obtain rfl := eq_of_engineStep_faulted hf he
    exact .inl (.refl _)
  · exact .inr ⟨rest, hp⟩

/-- With no hardware reset planned, all that happens in the fault state is the Hosts' moves. -/
theorem runSteps_faulted (k : Nat) :
    ∀ s : State, s.fault = true → Move.hardwareReset ∉ s.plan → ∃ t, runSteps k s = .next t ∧ HostsOnly s t := by
  induction k with
  | zero => exact fun s _ _ => ⟨s, rfl, .refl s⟩
  | succ k ih =>
    intro s hf hnoreset
    obtain ⟨t, ht⟩ := step_isNext s
    obtain hmoved | ⟨rest, hp⟩ := step_faulted hf ht
    · obtain ⟨u, hu, hrest⟩ := ih t (hmoved.block.fault.trans hf) fun hm => hnoreset (hmoved.plan.subset hm)
      exact ⟨u, (runSteps_succ k ht).trans hu, hmoved.trans hrest⟩
    · simp [hp] at hnoreset

/-! ## Waiting, and no longer waiting (R160, R207, R209) -/

theorem runSteps_of_step_self {s : State} (h : step s = .next s) (k : Nat) : runSteps k s = .next s := by
  induction k with
  | zero => rfl
  | succ k ih => exact (runSteps_succ k h).trans ih

/-- With no move planned a hold is a step that answers the same state (assumption 4). -/
theorem step_of_hold {s : State} {k : Hold} (hplan : s.plan = []) (h : holdOf s = some k) : step s = .next s :=
  (step_noPlan hplan).trans (engineStep_of_hold h)

/-- With no move planned a FINALIZE or GETHASH at the head of CMD is taken where DOUT has room for its digest (R161). -/
theorem step_takesDigestCommand {s : State} {w : Word} (hhead : AtHead w s) (hplan : s.plan = [])
    (hd : decode w = .cmd .finalize ∨ ∃ n, decode w = .cmd (.getHash n)) (hroom : doutHasRoom s = true) :
    ∃ t, step s = .next t ∧ t.cmd = s.cmd.tail := by
  obtain ⟨i, hi⟩ : ∃ i, decode w = .cmd i := hd.elim (fun h => ⟨_, h⟩) fun ⟨_, h⟩ => ⟨_, h⟩
  obtain ⟨t, he, hcmd, -⟩ := exec_takesWord (i := i) fun _ => hroom
  exact ⟨t, (step_noPlan hplan).trans ((engineStep_accept_atHead hhead hi).trans he), hcmd⟩

/-! ## The obligations -/

/-- Settles O23: without hardware reset a run in the fault state is made of Host moves, and FAULT = 1 is no good end. -/
theorem faultStateIsSticky : Obligations.FaultStateIsSticky := by
  intro k s hf hnoreset
  obtain ⟨t, ht, hblock, hdout, -⟩ := runSteps_faulted k s hf hnoreset
  have hft : t.fault = true := hblock.fault.trans hf
  exact ⟨t, ht, hft, hblock.fcode, hblock.buf, hblock.mode, hblock.phase, hblock.cmd, hblock.din, hdout,
    fun ⟨hgood, _⟩ => by simp [hft] at hgood⟩

/-- Settles O24: in the fault state no move but hardware reset writes FAULT. -/
theorem onlyHardwareResetLeavesFault : Obligations.OnlyHardwareResetLeavesFault := by
  intro s t hf h hleft
  obtain hmoved | hreset := step_faulted hf h
  · have hft : t.fault = true := hmoved.block.fault.trans hf
    simp [hft] at hleft
  · exact hreset

/-- Settles O22: the Engine alone enters the fault state, and it does so by `rejectCommand`. -/
theorem faultEntryChangesNothingElse : Obligations.FaultEntryChangesNothingElse := by
  intro s t hf h ht
  obtain ⟨plan, he⟩ | ⟨who, a, plan, ha⟩ | ⟨rest, -, rfl⟩ := step_agents h
  · obtain ⟨w, k, hhead, hoff, rfl⟩ := engineStep_entersFault (s := setPlan plan s) hf he ht
    exact ⟨rfl, w, hhead, hoff.cases⟩
  · have hft : t.fault = false := (hostAct_hostsOnly ha).block.fault.trans hf
    simp [hft] at ht
  · cases ht

/-- Settles O16: the wait is the DOUT-SPACE hold, and with the room made the word's accept takes it. -/
theorem digestCommandsWaitForRoom : Obligations.DigestCommandsWaitForRoom := by
  intro s w hhead hplan hd hfull
  refine ⟨step_of_hold hplan (holdOf_eq_doutSpace.2 ⟨w, hhead, (givesDigest_iff w).2 hd, hfull⟩), fun k hroom => ?_⟩
  exact step_takesDigestCommand (s := { s with dout := s.dout.drop k }) hhead hplan hd hroom

/-- Settles O21: the wait is the DIN-EMPTY hold, and PHASE is not IDLE in it. -/
theorem missingDataHoldsForever : Obligations.MissingDataHoldsForever := by
  intro k s hf hplan hp hd
  have hhold : holdOf s = some .dinEmpty := holdOf_eq_dinEmpty.2 ⟨hf, hp, hd⟩
  exact ⟨runSteps_of_step_self (step_of_hold hplan hhold) k, ⟨hf, hp, hd⟩, fun ⟨_, hidle, _⟩ => hp hidle⟩

/-- Settles O12: a finite BUF_CAP below the announced length rejects the WRITE, and an unbounded one allows every length. -/
theorem overflowingWriteFaults : Obligations.OverflowingWriteFaults := by
  intro n s
  refine ⟨fun cap hcap hover => ?_, fun hcap => ?_⟩
  · have hexceeds : allows s.params.bufCap (s.buf.length + n) = false := by simpa [hcap] using hover
    exact exec_write_overflow hexceeds
  · exact ⟨_, writeIsAccepted n s (by rw [hcap, allows_unbounded]), rfl⟩

end Sys2Proof.Machine
end

section
/-!
PROOFS. Hardware reset (R230 to R232), and the order in which one Host pushes commands and data (R238).
-/

namespace Sys2Proof.Machine

/-! ## Hardware reset -/

/-- After hardware reset every field of STATUS reads 0 (R33, R39). -/
theorem statusWord_hardwareReset (s : State) : statusWord (hardwareReset s) = 0 := by
  apply BitVec.eq_of_getLsbD_eq
  intro k _
  simp [statusWord_getLsbD, busy, Mode.bit]

/-- After hardware reset the Engine waits for the first command word (R230). -/
theorem holdOf_hardwareReset (s : State) : holdOf (hardwareReset s) = some .cmdEmpty :=
  holdOf_eq_cmdEmpty.2 ⟨rfl, rfl, rfl⟩

/-! ## A Host that cannot push -/

theorem pushCmd_eq_none {s : State} (who : Nat) (w : Word) (hfull : allows s.params.cmdDepth (s.cmd.length + 1) = false) :
    hostAct who (.pushCmd w) s = none := by
  obtain ⟨hpush, -⟩ := hostActionsAsNamed who s
  rw [hpush, if_neg (Bool.eq_false_iff.1 hfull)]

theorem pushDin_eq_none {s : State} (who : Nat) (b : Byte) (hfull : allows s.params.dinDepth (s.din.length + 1) = false) :
    hostAct who (.pushDin b) s = none := by
  obtain ⟨-, hpush, -⟩ := hostActionsAsNamed who s
  rw [hpush, if_neg (Bool.eq_false_iff.1 hfull)]

/-- With the next Host move not enabled and the Engine in a hold, neither of them moves again: the held move stays first
(assumption 3), and the hold answers the same state (assumption 4). -/
theorem runSteps_deadlock {s : State} {h : Hold} {who : Nat} {a : HostAction} {rest : List Move}
    (hplan : s.plan = .host who a :: rest) (hblocked : hostAct who a (setPlan rest s) = none)
    (hhold : holdOf s = some h) (k : Nat) : runSteps k s = .next s :=
  runSteps_of_step_self ((step_hostHolds hplan hblocked).trans (engineStep_of_hold hhold)) k

/-! ## The obligations -/

/-- Settles O9: the step is `hardwareReset`, which gives each field its value by definition. -/
theorem hardwareResetGivesResetState : Obligations.HardwareResetGivesResetState := by
  intro s rest hplan
  exact ⟨_, step_hardwareReset hplan, rfl, rfl, rfl, rfl, rfl, rfl, rfl, rfl, statusWord_hardwareReset _,
    holdOf_hardwareReset _, rfl⟩

/-- Settles O27: the blocked push meets DIN-EMPTY in the first half and CMD-EMPTY in the second. What moves are still to come
does not matter, since none of them is reached. -/
theorem commandsAheadOfDataDeadlock : Obligations.CommandsAheadOfDataDeadlock := by
  intro k s who rest hf _
  refine ⟨fun w hp hdin hplan hfull => ?_, fun b hp hcmd hplan hfull => ?_⟩
  · exact runSteps_deadlock hplan (pushCmd_eq_none who w hfull) (holdOf_eq_dinEmpty.2 ⟨hf, hp, hdin⟩) k
  · exact runSteps_deadlock hplan (pushDin_eq_none who b hfull) (holdOf_eq_cmdEmpty.2 ⟨hf, hp, hcmd⟩) k

end Sys2Proof.Machine
end
